-- ==== Sys2Proof/Word.lean ====
section
/-! DEFINITION. The word types of the machine: 8-bit bytes and registers, 16-bit opcodes, `I`, `PC` and return
addresses, 4-bit register indices, 12-bit address immediates (00_scope.md R5, R7, 30_encoding.md R61). Bit 0 is the
least significant bit (R7). -/

namespace Sys2Proof

/-- An 8-bit value: a general register, a memory cell, a timer, the keyboard latch (R5). -/
abbrev Byte := BitVec 8

/-- A 16-bit value: an opcode, `I`, `PC`, a return address (R5). -/
abbrev Word := BitVec 16

/-- A 4-bit value: a register index `x` or `y`, the sprite height `n`, a hexadecimal digit (R61). -/
abbrev Nibble := BitVec 4

/-- A 12-bit address immediate `nnn` (R61). -/
abbrev Addr := BitVec 12

end Sys2Proof
end

