-- ==== Sys2Proof/Config.lean ====
section
/-! DEFINITION. The parameters of the machine (00_scope.md R5) and the free values: the inputs of a step that no rule
constrains (60_exceptions.md R202, 42_alu.md R133) and the font bytes, a parameter the spec leaves open (20_memory.md
R43, decision D17). A free value is an `opaque` constant, so no proof can see what it is. -/

namespace Sys2Proof.Config

/-- `MEM_SIZE`: 4096 bytes (R5). -/
abbrev memSize : Nat := 4096

/-- `STACK_DEPTH`: 16 entries (R5, decision D3). -/
abbrev stackDepth : Nat := 16

/-- `DISP_W`: 64 cells in a display row (R5). -/
abbrev dispWidth : Nat := 64

/-- `DISP_CELLS`: 2048 display cells (R5). -/
abbrev dispCells : Nat := 2048

/-- `PROG_BASE`: the load address and the `PC` after a load (R5). -/
abbrev progBase : Nat := 0x200

/-- `FONT_LEN`: 80 bytes, at address `FONT_BASE` = 0 (R5). -/
abbrev fontLen : Nat := 80

/-- `GLYPH_LEN`: 5 bytes a glyph (R5). -/
abbrev glyphLen : Nat := 5

/-- `TICK_MS`: the least time between two timer decrements, 16 ms (R5). -/
abbrev tickMs : Nat := 16

/-- FREE VALUE (log entry 1). How many milliseconds the host lets pass before step number `k`: any number, so that the
`now` inputs of successive steps are any non-decreasing sequence (60_exceptions.md R200, R202; decision D20). -/
opaque elapsed : Nat → Nat

/-- FREE VALUE (log entry 2). The `rnd` input of step number `k`: any byte (42_alu.md R133, decision D21). -/
opaque rnd : Nat → Byte

/-- FREE VALUE (log entry 5). The parameter `FONT[0..79]`: the 80 bytes `load_program` installs at address 0
(20_memory.md R43, decision D17). -/
opaque font : Vector Byte 80

/-- The customary font table of 20_memory.md R43. PRESUMED by the spec (`[from general knowledge, not in source]`):
used by tests only, no definition of the machine reads it (log entry 5). -/
def customaryFont : Vector Byte 80 :=
  #v[0xF0, 0x90, 0x90, 0x90, 0xF0,  0x20, 0x60, 0x20, 0x20, 0x70,
     0xF0, 0x10, 0xF0, 0x80, 0xF0,  0xF0, 0x10, 0xF0, 0x10, 0xF0,
     0x90, 0x90, 0xF0, 0x10, 0x10,  0xF0, 0x80, 0xF0, 0x10, 0xF0,
     0xF0, 0x80, 0xF0, 0x90, 0xF0,  0xF0, 0x10, 0x20, 0x40, 0x40,
     0xF0, 0x90, 0xF0, 0x90, 0xF0,  0xF0, 0x90, 0xF0, 0x10, 0xF0,
     0xF0, 0x90, 0xF0, 0x90, 0x90,  0xE0, 0x90, 0xE0, 0x90, 0xE0,
     0xF0, 0x80, 0x80, 0x80, 0xF0,  0xE0, 0x90, 0x90, 0x90, 0xE0,
     0xF0, 0x80, 0xF0, 0x80, 0xF0,  0xF0, 0x80, 0xF0, 0x80, 0x80]

end Sys2Proof.Config
end

