-- ==== Sys2Proof/Syntax.lean ====
section
/-! DEFINITION. The instructions: one constructor per row of spec/opcode_table.json (30_encoding.md R73, R75), named by
the row's mnemonic in lower case, with the row's fields in the order the table gives them. -/

namespace Sys2Proof

/-- The 34 instructions. `x` and `y` select general registers, `kk` is an 8-bit and `nnn` a 12-bit immediate, `n` a
count of sprite rows (R61). -/
inductive Instr where
  /-- `00E0`: clear the display (R161). -/
  | cls
  /-- `00EE`: return (R101). -/
  | ret
  /-- `1nnn`: jump (R102). -/
  | jp (nnn : Addr)
  /-- `2nnn`: call (R103). -/
  | call (nnn : Addr)
  /-- `3xkk`: skip if `V[x] = kk` (R106). -/
  | sek (x : Nibble) (kk : Byte)
  /-- `4xkk`: skip if `V[x] != kk` (R107). -/
  | snek (x : Nibble) (kk : Byte)
  /-- `5xy0`: skip if `V[x] = V[y]` (R108). -/
  | ser (x y : Nibble)
  /-- `6xkk`: load the immediate (R122). -/
  | ldk (x : Nibble) (kk : Byte)
  /-- `7xkk`: add the immediate, no flag (R123). -/
  | addk (x : Nibble) (kk : Byte)
  /-- `8xy0`: copy (R124). -/
  | mov (x y : Nibble)
  /-- `8xy1`: bitwise or (R125). -/
  | or (x y : Nibble)
  /-- `8xy2`: bitwise and (R126). -/
  | and (x y : Nibble)
  /-- `8xy3`: bitwise exclusive or (R127). -/
  | xor (x y : Nibble)
  /-- `8xy4`: add with carry flag (R128). -/
  | add (x y : Nibble)
  /-- `8xy5`: subtract with strict greater-than flag (R129). -/
  | sub (x y : Nibble)
  /-- `8xy6`: shift right by one; `y` is encoded and ignored (R130, R71). -/
  | shr (x y : Nibble)
  /-- `8xy7`: subtract the other way round (R131). -/
  | subn (x y : Nibble)
  /-- `8xyE`: shift left by one; `y` is encoded and ignored (R132, R71). -/
  | shl (x y : Nibble)
  /-- `9xy0`: skip if `V[x] != V[y]` (R109). -/
  | sner (x y : Nibble)
  /-- `Annn`: load `I` (R141). -/
  | ldi (nnn : Addr)
  /-- `Bnnn`: jump to `nnn + V0` (R104). -/
  | jpv0 (nnn : Addr)
  /-- `Cxkk`: random byte and `kk` (R133). -/
  | rnd (x : Nibble) (kk : Byte)
  /-- `Dxyn`: draw an `n`-byte sprite (R162). -/
  | drw (x y n : Nibble)
  /-- `Ex9E`: skip if the latch equals `V[x]` (R171). -/
  | skp (x : Nibble)
  /-- `ExA1`: skip if the latch differs from `V[x]` (R172). -/
  | sknp (x : Nibble)
  /-- `Fx07`: read the delay timer (R174). -/
  | getdt (x : Nibble)
  /-- `Fx0A`: wait for a key (R173). -/
  | waitk (x : Nibble)
  /-- `Fx15`: write the delay timer (R175). -/
  | setdt (x : Nibble)
  /-- `Fx18`: write the sound timer (R176). -/
  | setst (x : Nibble)
  /-- `Fx1E`: add `V[x]` to `I` (R142). -/
  | addi (x : Nibble)
  /-- `Fx29`: point `I` at the glyph of `V[x]` (R143). -/
  | font (x : Nibble)
  /-- `Fx33`: store the decimal digits of `V[x]` (R144). -/
  | bcd (x : Nibble)
  /-- `Fx55`: store `V0..Vx` (R145). -/
  | store (x : Nibble)
  /-- `Fx65`: load `V0..Vx` (R146). -/
  | load (x : Nibble)
deriving DecidableEq, Repr

end Sys2Proof
end

