-- ==== Sys2Proof/WellFormed.lean ====
section
/-! DEFINITION. Which terms are well formed. The fields of an instruction have exactly the widths of 30_encoding.md R61
and every value of every field is legal (R63, R71), so the types already shut out every ill-formed instruction and
`Instr.wf` holds of all of them. What can be ill formed is a program handed to `load_program`
(70_reset_and_hazards.md R233): `programFits` is its check. -/

namespace Sys2Proof

/-- Every instruction is well formed: all 16 values are legal in every register field, and every immediate is used at
its own width (R63, R71). One arm per constructor, so that a new one cannot slip past. -/
def Instr.wf : Instr → Bool
  | .cls | .ret => true
  | .jp _ | .call _ | .ldi _ | .jpv0 _ => true
  | .sek _ _ | .snek _ _ | .ldk _ _ | .addk _ _ | .rnd _ _ => true
  | .ser _ _ | .sner _ _ | .mov _ _ | .or _ _ | .and _ _ | .xor _ _ | .add _ _ | .sub _ _ | .shr _ _ | .subn _ _
  | .shl _ _ => true
  | .drw _ _ _ => true
  | .skp _ | .sknp _ | .getdt _ | .waitk _ | .setdt _ | .setst _ | .addi _ | .font _ | .bcd _ | .store _
  | .load _ => true

/-- The bound check of `load_program`: the program lies between 0x200 and the end of memory (R233). -/
def programFits (words : List Word) : Bool :=
  decide (Config.progBase + 2 * words.length ≤ Config.memSize)

end Sys2Proof
end

