-- ==== Sys2Proof/Decode.lean ====
section
/-! DEFINITION. The decoder (30_encoding.md R60 to R70), total on any word and any bytes, the encoder written from the
format table R62 and the match values of R75, and the opcode table itself as data. -/

namespace Sys2Proof

/-! ### Fields (R61) -/

/-- `fam = op[15:12]`. -/
def fieldFam (op : Word) : Nibble := op.extractLsb' 12 4

/-- `x = op[11:8]`. -/
def fieldX (op : Word) : Nibble := op.extractLsb' 8 4

/-- `y = op[7:4]`. -/
def fieldY (op : Word) : Nibble := op.extractLsb' 4 4

/-- `n = op[3:0]`. -/
def fieldN (op : Word) : Nibble := op.extractLsb' 0 4

/-- `kk = op[7:0]`. -/
def fieldKK (op : Word) : Byte := op.extractLsb' 0 8

/-- `nnn = op[11:0]`. -/
def fieldNNN (op : Word) : Addr := op.extractLsb' 0 12

/-! ### Decoding (R64) -/

/-- Family 0x0: the whole word selects (R65). -/
def decodeFam0 (op : Word) : Option Instr :=
  if op = 0x00E0 then some .cls else if op = 0x00EE then some .ret else none

/-- Families 0x5 and 0x9: the low nibble must be 0 (R67). -/
def decodeSkipReg (i : Instr) (op : Word) : Option Instr :=
  if fieldN op = 0 then some i else none

/-- Family 0x8: the sub-opcode is `n` (R66). -/
def decodeFam8 (op : Word) : Option Instr :=
  match (fieldN op).toNat with
  | 0x0 => some (.mov (fieldX op) (fieldY op))
  | 0x1 => some (.or (fieldX op) (fieldY op))
  | 0x2 => some (.and (fieldX op) (fieldY op))
  | 0x3 => some (.xor (fieldX op) (fieldY op))
  | 0x4 => some (.add (fieldX op) (fieldY op))
  | 0x5 => some (.sub (fieldX op) (fieldY op))
  | 0x6 => some (.shr (fieldX op) (fieldY op))
  | 0x7 => some (.subn (fieldX op) (fieldY op))
  | 0xE => some (.shl (fieldX op) (fieldY op))
  | _ => none

/-- Family 0xE: the sub-opcode is `kk` (R68). -/
def decodeFamE (op : Word) : Option Instr :=
  match (fieldKK op).toNat with
  | 0x9E => some (.skp (fieldX op))
  | 0xA1 => some (.sknp (fieldX op))
  | _ => none

/-- Family 0xF: the sub-opcode is `kk` (R69). -/
def decodeFamF (op : Word) : Option Instr :=
  match (fieldKK op).toNat with
  | 0x07 => some (.getdt (fieldX op))
  | 0x0A => some (.waitk (fieldX op))
  | 0x15 => some (.setdt (fieldX op))
  | 0x18 => some (.setst (fieldX op))
  | 0x1E => some (.addi (fieldX op))
  | 0x29 => some (.font (fieldX op))
  | 0x33 => some (.bcd (fieldX op))
  | 0x55 => some (.store (fieldX op))
  | 0x65 => some (.load (fieldX op))
  | _ => none

/-- Dispatch on the family (R64): the instruction an opcode is, or none for an unsupported word (R70). -/
def decodeWord (op : Word) : Option Instr :=
  match (fieldFam op).toNat with
  | 0x0 => decodeFam0 op
  | 0x1 => some (.jp (fieldNNN op))
  | 0x2 => some (.call (fieldNNN op))
  | 0x3 => some (.sek (fieldX op) (fieldKK op))
  | 0x4 => some (.snek (fieldX op) (fieldKK op))
  | 0x5 => decodeSkipReg (.ser (fieldX op) (fieldY op)) op
  | 0x6 => some (.ldk (fieldX op) (fieldKK op))
  | 0x7 => some (.addk (fieldX op) (fieldKK op))
  | 0x8 => decodeFam8 op
  | 0x9 => decodeSkipReg (.sner (fieldX op) (fieldY op)) op
  | 0xA => some (.ldi (fieldNNN op))
  | 0xB => some (.jpv0 (fieldNNN op))
  | 0xC => some (.rnd (fieldX op) (fieldKK op))
  | 0xD => some (.drw (fieldX op) (fieldY op) (fieldN op))
  | 0xE => decodeFamE op
  | 0xF => decodeFamF op
  | _ => none

/-- Two bytes as an opcode, the byte at the lower address in bits 15..8 (20_memory.md R44). -/
def wordOfBytes (hi lo : Byte) : Word := hi ++ lo

/-- The byte at the lower address: bits 15..8 (R44). -/
def highByte (w : Word) : Byte := w.extractLsb' 8 8

/-- The byte at the higher address: bits 7..0 (R44). -/
def lowByte (w : Word) : Byte := w.extractLsb' 0 8

/-- Why bytes decode to no instruction. -/
inductive DecodeError where
  /-- Fewer than two bytes: every instruction is two bytes (R60). -/
  | truncated
  /-- The word matches no row of the opcode table (R70). -/
  | unsupported (op : Word)
deriving DecidableEq, Repr

/-- Decode the first instruction of a byte stream and return the bytes after it (R60). -/
def decodeBytes : List Byte → Except DecodeError (Instr × List Byte)
  | hi :: lo :: rest =>
    match decodeWord (wordOfBytes hi lo) with
    | some i => .ok (i, rest)
    | none => .error (.unsupported (wordOfBytes hi lo))
  | _ => .error .truncated

/-- The instruction the decoder reads from an instruction whose bits are `w`, numbered as spec/opcode_table.json
numbers them. Instructions are one 16-bit word (R60), laid out high byte first (R44). -/
def decodeTableWord (nbits w : Nat) : Option Instr :=
  let word : Word := BitVec.ofNat 16 (w % 2 ^ nbits)
  match decodeBytes [highByte word, lowByte word] with
  | .ok (i, _) => some i
  | .error _ => none

/-! ### Encoding (R62) -/

/-- Format A: family and `nnn`. -/
def encA (fam : Nibble) (nnn : Addr) : Word := fam ++ nnn

/-- Format XK: family, `x` and `kk`. -/
def encXK (fam x : Nibble) (kk : Byte) : Word := (fam ++ x) ++ kk

/-- Formats XY and XYN: family, `x`, `y` and the low nibble. -/
def encXYN (fam x y n : Nibble) : Word := (fam ++ x) ++ (y ++ n)

/-- The word of an instruction, from the patterns of R73 and the formats of R62. -/
def encode : Instr → Word
  | .cls => 0x00E0
  | .ret => 0x00EE
  | .jp nnn => encA 0x1 nnn
  | .call nnn => encA 0x2 nnn
  | .sek x kk => encXK 0x3 x kk
  | .snek x kk => encXK 0x4 x kk
  | .ser x y => encXYN 0x5 x y 0x0
  | .ldk x kk => encXK 0x6 x kk
  | .addk x kk => encXK 0x7 x kk
  | .mov x y => encXYN 0x8 x y 0x0
  | .or x y => encXYN 0x8 x y 0x1
  | .and x y => encXYN 0x8 x y 0x2
  | .xor x y => encXYN 0x8 x y 0x3
  | .add x y => encXYN 0x8 x y 0x4
  | .sub x y => encXYN 0x8 x y 0x5
  | .shr x y => encXYN 0x8 x y 0x6
  | .subn x y => encXYN 0x8 x y 0x7
  | .shl x y => encXYN 0x8 x y 0xE
  | .sner x y => encXYN 0x9 x y 0x0
  | .ldi nnn => encA 0xA nnn
  | .jpv0 nnn => encA 0xB nnn
  | .rnd x kk => encXK 0xC x kk
  | .drw x y n => encXYN 0xD x y n
  | .skp x => encXK 0xE x 0x9E
  | .sknp x => encXK 0xE x 0xA1
  | .getdt x => encXK 0xF x 0x07
  | .waitk x => encXK 0xF x 0x0A
  | .setdt x => encXK 0xF x 0x15
  | .setst x => encXK 0xF x 0x18
  | .addi x => encXK 0xF x 0x1E
  | .font x => encXK 0xF x 0x29
  | .bcd x => encXK 0xF x 0x33
  | .store x => encXK 0xF x 0x55
  | .load x => encXK 0xF x 0x65

/-- The two bytes of an instruction in memory, most significant byte first (R60, 20_memory.md R44). -/
def encodeBytes (i : Instr) : List Byte := [highByte (encode i), lowByte (encode i)]

/-! ### The opcode table as data (R75) -/

/-- One row: the opcode selects it when `op & mask = value` (R75 writes `match` for the value). -/
structure OpcodeRow where
  value : Word
  mask : Word
deriving DecidableEq, Repr

/-- Does the opcode select the row (R64, R75)? -/
def OpcodeRow.selects (r : OpcodeRow) (op : Word) : Bool := op &&& r.mask == r.value

/-- The row of spec/opcode_table.json an instruction belongs to: its match and mask (R75). -/
def opcodeRow : Instr → OpcodeRow
  | .cls => ⟨0x00E0, 0xFFFF⟩
  | .ret => ⟨0x00EE, 0xFFFF⟩
  | .jp _ => ⟨0x1000, 0xF000⟩
  | .call _ => ⟨0x2000, 0xF000⟩
  | .sek _ _ => ⟨0x3000, 0xF000⟩
  | .snek _ _ => ⟨0x4000, 0xF000⟩
  | .ser _ _ => ⟨0x5000, 0xF00F⟩
  | .ldk _ _ => ⟨0x6000, 0xF000⟩
  | .addk _ _ => ⟨0x7000, 0xF000⟩
  | .mov _ _ => ⟨0x8000, 0xF00F⟩
  | .or _ _ => ⟨0x8001, 0xF00F⟩
  | .and _ _ => ⟨0x8002, 0xF00F⟩
  | .xor _ _ => ⟨0x8003, 0xF00F⟩
  | .add _ _ => ⟨0x8004, 0xF00F⟩
  | .sub _ _ => ⟨0x8005, 0xF00F⟩
  | .shr _ _ => ⟨0x8006, 0xF00F⟩
  | .subn _ _ => ⟨0x8007, 0xF00F⟩
  | .shl _ _ => ⟨0x800E, 0xF00F⟩
  | .sner _ _ => ⟨0x9000, 0xF00F⟩
  | .ldi _ => ⟨0xA000, 0xF000⟩
  | .jpv0 _ => ⟨0xB000, 0xF000⟩
  | .rnd _ _ => ⟨0xC000, 0xF000⟩
  | .drw _ _ _ => ⟨0xD000, 0xF000⟩
  | .skp _ => ⟨0xE09E, 0xF0FF⟩
  | .sknp _ => ⟨0xE0A1, 0xF0FF⟩
  | .getdt _ => ⟨0xF007, 0xF0FF⟩
  | .waitk _ => ⟨0xF00A, 0xF0FF⟩
  | .setdt _ => ⟨0xF015, 0xF0FF⟩
  | .setst _ => ⟨0xF018, 0xF0FF⟩
  | .addi _ => ⟨0xF01E, 0xF0FF⟩
  | .font _ => ⟨0xF029, 0xF0FF⟩
  | .bcd _ => ⟨0xF033, 0xF0FF⟩
  | .store _ => ⟨0xF055, 0xF0FF⟩
  | .load _ => ⟨0xF065, 0xF0FF⟩

/-- All 34 rows of the table, in its order (R75). -/
def opcodeRows : List OpcodeRow :=
  [⟨0x00E0, 0xFFFF⟩, ⟨0x00EE, 0xFFFF⟩, ⟨0x1000, 0xF000⟩, ⟨0x2000, 0xF000⟩, ⟨0x3000, 0xF000⟩, ⟨0x4000, 0xF000⟩,
    ⟨0x5000, 0xF00F⟩, ⟨0x6000, 0xF000⟩, ⟨0x7000, 0xF000⟩]
  ++ [⟨0x8000, 0xF00F⟩, ⟨0x8001, 0xF00F⟩, ⟨0x8002, 0xF00F⟩, ⟨0x8003, 0xF00F⟩, ⟨0x8004, 0xF00F⟩, ⟨0x8005, 0xF00F⟩,
    ⟨0x8006, 0xF00F⟩, ⟨0x8007, 0xF00F⟩, ⟨0x800E, 0xF00F⟩]
  ++ [⟨0x9000, 0xF00F⟩, ⟨0xA000, 0xF000⟩, ⟨0xB000, 0xF000⟩, ⟨0xC000, 0xF000⟩, ⟨0xD000, 0xF000⟩, ⟨0xE09E, 0xF0FF⟩,
    ⟨0xE0A1, 0xF0FF⟩]
  ++ [⟨0xF007, 0xF0FF⟩, ⟨0xF00A, 0xF0FF⟩, ⟨0xF015, 0xF0FF⟩, ⟨0xF018, 0xF0FF⟩, ⟨0xF01E, 0xF0FF⟩, ⟨0xF029, 0xF0FF⟩,
    ⟨0xF033, 0xF0FF⟩, ⟨0xF055, 0xF0FF⟩, ⟨0xF065, 0xF0FF⟩]

end Sys2Proof
end

