-- ==== Sys2Proof/Machine/State.lean ====
section
/-! DEFINITION. The state of the core (10_state.md R10: one field per row), the reasons a step can stop, the fatal
conditions by name (60_exceptions.md R190) and the state after reset (R26, 70_reset_and_hazards.md R231). -/

namespace Sys2Proof.Machine

/-- Main memory as data: (address, byte) pairs with addresses strictly rising and below 4096, none holding 0x00; an
unlisted cell reads 0x00, what `initialize` leaves in all 4096 cells (R18, R26). -/
abbrev Memory := List Host.Cell

/-- The display buffer, one bit a cell (R19, decision D30), in 32 rows of 64 cells from the top: the cell of linear index
`j = 64*row + col` is bit `col` of row `row`. -/
abbrev Display := Vector (BitVec 64) 32

/-- The state of the core. The first sixteen fields are the elements of R10; the last three are the model's own and
hold the inputs of `step` (R24), which the spec does not count as state (log entries 1 to 3). -/
structure State where
  /-- `MEM` (R18). -/
  mem : Memory
  /-- `V`: V0..VF; VF is also the flag register (R11, R12). -/
  v : Vector Byte 16
  /-- `I` (R13). -/
  i : Word
  /-- `PC` (R14). -/
  pc : Word
  /-- `S`: the call stack (R15). -/
  stack : Vector Word 16
  /-- `SP`: the number of valid entries of `S`, 0 to 16 (R15). -/
  sp : Fin 17
  /-- `DT`: the delay timer (R16). -/
  dt : Byte
  /-- `ST`: the sound timer (R17). -/
  st : Byte
  /-- `DISP` (R19). -/
  disp : Display
  /-- `KEY`: the keyboard latch (R20). -/
  key : Byte
  /-- `WAIT`: the wait-for-key flag (R21). -/
  wait : Bool
  /-- `WAITX`: the destination of the pending `Fx0A` (R21). -/
  waitX : Nibble
  /-- `LAST_TICK`: the time of the last timer tick, in ms (R22). -/
  lastTick : Nat
  /-- `HALT`: a fatal condition has occurred (R23). -/
  halt : Bool
  /-- `FCAUSE`: which one (R23, 60_exceptions.md R190). -/
  fcause : BitVec 2
  /-- `FVAL`: the opcode that met it (R23). -/
  fval : Word
  /-- The model's own: the `now` of the latest step of a core that was not halted, or of a later `initialize` (log
  entry 1). -/
  nowIn : Nat
  /-- The model's own: the `rnd` input of the current step (log entry 2). -/
  rndIn : Byte
  /-- The model's own: the number of steps begun, from which the free inputs of the next step are taken (log entry
  3). -/
  stepNo : Nat
deriving DecidableEq, Repr

/-- Faults that end a run. There are NONE: the fatal conditions of this machine have an entry the spec describes
(60_exceptions.md R191: `HALT`, `FCAUSE` and `FVAL` are written and the core stays as it is), so they are next states,
and every other instruction completes in every state (R196). Nobody raises a fault: safe. -/
inductive Fault where
deriving DecidableEq, Repr

/-- Refusals: instructions without a meaning. -/
inductive Refusal where
  /-- Answered by `exec`'s own arm for an instruction that has no meaning yet; no arm answers so now. Safe: nothing
  can be proved of such an instruction. -/
  | notModelled (mnemonic : String)
deriving DecidableEq, Repr

/-- What a step or a meaning answers. -/
abbrev Result := Host.Outcome State Fault Refusal

/-- The fatal conditions of a step (60_exceptions.md R190). -/
inductive Condition where
  /-- The fetched opcode matches no row of the opcode table (R192). -/
  | unsupportedOpcode
  /-- `00EE` with `SP = 0` (R193). -/
  | callStackUnderflow
  /-- `2nnn` with `SP = 16` (R194). -/
  | callStackOverflow
deriving DecidableEq, Repr

/-- The state after `initialize(now)` (R26, 70_reset_and_hazards.md R231): everything zero but `LAST_TICK`. -/
def State.resetAt (now : Nat) : State where
  mem := []
  v := Vector.replicate 16 0
  i := 0
  pc := 0
  stack := Vector.replicate 16 0
  sp := 0
  dt := 0
  st := 0
  disp := Vector.replicate 32 0
  key := 0
  wait := false
  waitX := 0
  lastTick := now
  halt := false
  fcause := 0
  fval := 0
  nowIn := now
  rndIn := 0
  stepNo := 0

/-- The machine right after reset: `initialize` at time 0 (R26; the time is a DESIGN CHOICE, log entry 4). -/
def State.reset : State := State.resetAt 0

end Sys2Proof.Machine
end

