-- ==== Sys2Proof/Machine/Ops.lean ====
section
/-! DEFINITION. The named operations over memory, registers, stack, display and timers; raising a fatal condition
(60_exceptions.md R191); the phases of a step that are not an instruction's own (40_step_cycle.md R80). -/

namespace Sys2Proof.Machine

/-! ### Memory (20_memory.md) -/

/-- The byte a cell holds; an unlisted cell holds 0x00 (R26). -/
def Memory.read : Memory → Nat → Byte
  | [], _ => 0
  | (k, b) :: rest, a => if k = a then b else Memory.read rest a

/-- Remove a cell's entry, so that it reads 0x00. -/
def Memory.erase (m : Memory) (a : Nat) : Memory := m.filter fun c => c.1 != a

/-- Put an entry in its place in the rising order. -/
def Memory.insert : Memory → Nat → Byte → Memory
  | [], a, b => [(a, b)]
  | (k, c) :: rest, a, b => if a < k then (a, b) :: (k, c) :: rest else (k, c) :: Memory.insert rest a b

/-- Write one cell: "every cell is plain storage that returns the last value written" (R47). A zero byte leaves no
entry, which keeps the form canonical. -/
def Memory.write (m : Memory) (a : Nat) (b : Byte) : Memory :=
  if b = 0 then m.erase a else (m.erase a).insert a b

/-- `MemWrite(addr, n, v)`: the bytes at `addr mod 4096`, `(addr + 1) mod 4096`, and so on, ascending (R46,
00_scope.md R7). -/
def Memory.writeBytes : Memory → Nat → List Byte → Memory
  | m, _, [] => m
  | m, addr, b :: bs => Memory.writeBytes (m.write (addr % Config.memSize) b) (addr + 1) bs

/-- The canonical form: addresses strictly rising and inside the 4096 cells (R40), no entry 0x00. -/
def Memory.wf : Memory → Bool
  | [] => true
  | (a, b) :: rest => decide (a < Config.memSize) && b != 0 && rest.all (fun c => decide (a < c.1)) && Memory.wf rest

/-- The cell accessed for an address expression `a` is `MEM[a mod 4096]` (R46). -/
def State.byteAt (s : State) (a : Nat) : Byte := s.mem.read (a % Config.memSize)

/-- `MemRead(addr, n)`: `n` bytes in ascending order of offset (00_scope.md R7). -/
def State.memRead (s : State) (addr n : Nat) : List Byte := (List.range n).map fun k => s.byteAt (addr + k)

/-- `MemWrite(addr, n, v)` on the machine's memory (00_scope.md R7). -/
def State.memWrite (s : State) (addr : Nat) (bytes : List Byte) : State :=
  { s with mem := s.mem.writeBytes addr bytes }

/-! ### Registers (10_state.md R11 to R14) -/

/-- Read of the general register `V[x]` (R11). -/
def State.getV (s : State) (x : Nibble) : Byte := s.v[x.toNat]'x.isLt

/-- Write of the general register `V[x]`; no register is hard-wired (R11). -/
def State.setV (s : State) (x : Nibble) (b : Byte) : State := { s with v := s.v.set x.toNat b x.isLt }

/-- Write of `I`, all 16 bits (R13). -/
def State.setI (s : State) (w : Word) : State := { s with i := w }

/-- Write of `PC`, all 16 bits (R14). -/
def State.setPc (s : State) (w : Word) : State := { s with pc := w }

/-- `PC <- (PC + 2) mod 65536`: phase 5 of a step (40_step_cycle.md R86), and once more for a skip (41_flow.md R105). -/
def State.advancePc (s : State) : State := s.setPc (s.pc + 2)

/-- Write of `DT` (R16). -/
def State.setDt (s : State) (b : Byte) : State := { s with dt := b }

/-- Write of `ST` (R17). -/
def State.setSt (s : State) (b : Byte) : State := { s with st := b }

/-- Write of `DISP` (R19). -/
def State.setDisp (s : State) (d : Display) : State := { s with disp := d }

/-- Write of `WAIT` (R21). -/
def State.setWait (s : State) (b : Bool) : State := { s with wait := b }

/-- Write of `WAITX` (R21). -/
def State.setWaitX (s : State) (x : Nibble) : State := { s with waitX := x }

/-- Write of `KEY`: the host's operations only (R20). -/
def State.setKey (s : State) (b : Byte) : State := { s with key := b }

/-! ### Call stack (10_state.md R15) -/

/-- `push(v)`: none when all 16 entries are in use. -/
def State.push (s : State) (w : Word) : Option State :=
  if h : s.sp.val < 16 then
    some { s with stack := s.stack.set s.sp.val w h, sp := ⟨s.sp.val + 1, Nat.succ_lt_succ h⟩ }
  else none

/-- `pop()`: the top entry and the state with `SP` one less; none when the stack is empty. The entry keeps its value
in `S` (decision D5). -/
def State.pop (s : State) : Option (Word × State) :=
  if h : 0 < s.sp.val then
    some (s.stack[s.sp.val - 1]'(by have := s.sp.isLt; omega), { s with sp := ⟨s.sp.val - 1, by have := s.sp.isLt; omega⟩ })
  else none

/-! ### Fatal conditions (60_exceptions.md) -/

/-- The code of a condition in `FCAUSE` (R190). -/
def Condition.code : Condition → BitVec 2
  | .unsupportedOpcode => 1
  | .callStackUnderflow => 2
  | .callStackOverflow => 3

/-- `raise C(op)`: the one entry of every fatal condition. "Nothing else is saved and nothing else is changed" (R191):
`PC` stays at the advanced value. There is no return from it but the host's reset (R199). -/
def State.raise (s : State) (c : Condition) (op : Word) : State :=
  { s with halt := true, fcause := c.code, fval := op }

/-! ### Display (44_display.md) -/

/-- Does the cell of linear index `j = 64*row + col` hold 1 (R160)? There is no cell beyond index 2047. -/
def Display.cell (d : Display) (j : Nat) : Bool :=
  if h : j / Config.dispWidth < 32 then d[j / Config.dispWidth].getLsbD (j % Config.dispWidth) else false

/-- The display with the cell of linear index `j` inverted. -/
def Display.flip (d : Display) (j : Nat) : Display :=
  if h : j / Config.dispWidth < 32 then
    d.set (j / Config.dispWidth) (d[j / Config.dispWidth] ^^^ BitVec.twoPow 64 (j % Config.dispWidth))
  else d

/-- Every cell 0 (R161). -/
def Display.blank : Display := Vector.replicate 32 0

/-- One sprite bit at linear index `p.1` (R162, the inner loop's body): a bit beyond the buffer is dropped; a set bit
inverts its cell and records a collision when the cell held 1. -/
def plot (a : Display × Bool) (p : Nat × Bool) : Display × Bool :=
  if p.1 < Config.dispCells then
    if p.2 then (a.1.flip p.1, a.2 || a.1.cell p.1) else a
  else a

/-- `idx = 64 * (py + r) + (px + c)`, a natural number with no reduction (R162). -/
def spriteIndex (px py r c : Nat) : Nat := Config.dispWidth * (py + r) + (px + c)

/-- `b[7 - c]`: bit 7 is the leftmost pixel (R160, decision D16). -/
def spriteBit (b : Byte) (c : Nat) : Bool := b.getLsbD (7 - c)

/-- The bits of the sprite at `MEM[I..I+n)` drawn at `(px, py)`, in the order of R162's two loops. -/
def State.spritePixels (s : State) (px py n : Nat) : List (Nat × Bool) :=
  (List.range n).flatMap fun r =>
    (List.range 8).map fun c => (spriteIndex px py r c, spriteBit (s.byteAt (s.i.toNat + r)) c)

/-- The display after all the bits, and whether any of them collided (R162). -/
def plotAll (d : Display) (pixels : List (Nat × Bool)) : Display × Bool := pixels.foldl plot (d, false)

/-! ### The step's own phases (40_step_cycle.md) -/

/-- The inputs of a step are latched at its start (R80; log entries 1 to 3). -/
def State.latchInputs (s : State) (now : Nat) (rnd : Byte) : State :=
  { s with nowIn := now, rndIn := rnd, stepNo := s.stepNo + 1 }

/-- Is a tick due: `now - LAST_TICK >= 16` (60_exceptions.md R200)? -/
def State.tickDue (s : State) : Bool := decide (Config.tickMs ≤ s.nowIn - s.lastTick)

/-- A timer after a tick opportunity: "timers never go below zero; decrementing a zero timer is a no-op" (R16). -/
def countDown (due : Bool) (t : Byte) : Byte := if t = 0 then 0 else if due then t - 1 else t

/-- Phase 1, `TimerTick(now)` (60_exceptions.md R200). -/
def State.timerTick (s : State) : State :=
  { s with
    dt := countDown s.tickDue s.dt
    st := countDown s.tickDue s.st
    lastTick := if s.tickDue then s.nowIn else s.lastTick }

/-- Phase 2 with `WAIT = 1`: the wait completes when a key is latched, else nothing happens (R83). -/
def State.stallCheck (s : State) : State :=
  if s.key = 0 then s else (s.setV s.waitX s.key).setWait false

/-- Phase 3: the opcode at `PC`, big-endian (R84). -/
def State.fetchWord (s : State) : Word := wordOfBytes (s.byteAt s.pc.toNat) (s.byteAt (s.pc.toNat + 1))

end Sys2Proof.Machine
end

