-- ==== Sys2Proof/Machine/Operands.lean ====
section
/-! DEFINITION. The operand forms: zero-extended immediates (30_encoding.md R63), the base-`I` memory operand
(43_index_memory.md R140), the skip (41_flow.md R105), the register block of `Fx55` and `Fx65`, the decimal digits of
`Fx33` and the glyph address of `Fx29`. -/

namespace Sys2Proof.Machine

/-- `zext_16(nnn)` (R63). -/
def zextAddr (nnn : Addr) : Word := nnn.setWidth 16

/-- `zext_16` of a byte (R63). -/
def zextByte (b : Byte) : Word := b.setWidth 16

/-- "skip next instr": `PC <- (PC + 2) mod 65536` once more when the condition holds (R105). -/
def State.skipIf (s : State) (cond : Bool) : State := { s with pc := if cond then s.pc + 2 else s.pc }

/-- The base of every data access: `I` (R140). -/
def State.dataBase (s : State) : Nat := s.i.toNat

/-- The bytes `V[0], .., V[n-1]`, the block of `Fx55` (R145). -/
def State.regBlock (s : State) (n : Nat) : List Byte := (List.range n).map fun k => s.getV (BitVec.ofNat 4 k)

/-- `for i from 0 to n-1: V[i] <- MemRead(I + i, 1)`, the loop of `Fx65` (R146). -/
def State.loadBlock (s : State) : Nat → State
  | 0 => s
  | k + 1 => (s.loadBlock k).setV (BitVec.ofNat 4 k) (s.byteAt (s.dataBase + k))

/-- The decimal digits of a byte: hundreds, tens, ones (R144). -/
def bcdDigits (b : Byte) : List Byte :=
  [BitVec.ofNat 8 (b.toNat / 100), BitVec.ofNat 8 (b.toNat / 10 % 10), BitVec.ofNat 8 (b.toNat % 10)]

/-- `5 * zext_16(V[x])`: the glyph address of a digit (R143). -/
def glyphAddr (b : Byte) : Word := BitVec.ofNat 16 Config.glyphLen * zextByte b

end Sys2Proof.Machine
end

