-- ==== Sys2Proof/Machine/Flags.lean ====
section
/-! DEFINITION. The flag computations, all of them into VF, the only flag (10_state.md R12): carry, strict greater-than,
collision. -/

namespace Sys2Proof.Machine

/-- A flag as a byte: 1 or 0. -/
def flagByte (b : Bool) : Byte := if b then 1 else 0

/-- The carry of `8xy4`: is the widened sum above 255 (42_alu.md R128)? -/
def carryFlag (a b : Byte) : Byte := flagByte (decide (255 < a.toNat + b.toNat))

/-- The flag of a subtraction: is the minuend strictly greater (42_alu.md R121, R129, R131)? -/
def greaterFlag (a b : Byte) : Byte := flagByte (decide (b.toNat < a.toNat))

/-- Write VF, `V[15]` (10_state.md R12). -/
def State.setFlag (s : State) (f : Byte) : State := s.setV 15 f

end Sys2Proof.Machine
end

