-- ==== Sys2Proof/Machine/Alu.lean ====
section
/-! DEFINITION. Register load, arithmetic, logic, shift and random (42_alu.md). Effects written as a list are
sequential: each reads the registers as the ones before it left them (R120, decision D12). -/

namespace Sys2Proof.Machine

/-- `6xkk` LDK: `V[x] <- kk` (R122). -/
def execLdk (x : Nibble) (kk : Byte) (s : State) : Result := .next (s.setV x kk)

/-- `7xkk` ADDK: `V[x] <- (V[x] + kk) mod 256`, no flag (R123). -/
def execAddk (x : Nibble) (kk : Byte) (s : State) : Result := .next (s.setV x (s.getV x + kk))

/-- `8xy0` MOV: `V[x] <- V[y]` (R124). -/
def execMov (x y : Nibble) (s : State) : Result := .next (s.setV x (s.getV y))

/-- `8xy1` OR (R125). -/
def execOr (x y : Nibble) (s : State) : Result := .next (s.setV x (s.getV x ||| s.getV y))

/-- `8xy2` AND (R126). -/
def execAnd (x y : Nibble) (s : State) : Result := .next (s.setV x (s.getV x &&& s.getV y))

/-- `8xy3` XOR (R127). -/
def execXor (x y : Nibble) (s : State) : Result := .next (s.setV x (s.getV x ^^^ s.getV y))

/-- `8xy4` ADD: the sum of the old operands; VF is the carry, written first; then `V[x] <- sum mod 256` (R128). -/
def execAdd (x y : Nibble) (s : State) : Result :=
  .next ((s.setFlag (carryFlag (s.getV x) (s.getV y))).setV x (s.getV x + s.getV y))

/-- `V[15] <- (V[a] > V[b]) ? 1 : 0`, the flag write of both subtractions (R129, R131). -/
def State.flagGreater (s : State) (a b : Nibble) : State := s.setFlag (greaterFlag (s.getV a) (s.getV b))

/-- `8xy5` SUB: the flag `V[x] > V[y]`, then `V[x] <- (V[x] - V[y]) mod 256` from the registers after the flag write
(R129). -/
def execSub (x y : Nibble) (s : State) : Result :=
  let t := s.flagGreater x y
  .next (t.setV x (t.getV x - t.getV y))

/-- `8xy6` SHR: `V[x] <- V[x] >> 1`; `V[y]` is not read, VF is not written (R130). -/
def execShr (x _y : Nibble) (s : State) : Result := .next (s.setV x (s.getV x >>> 1))

/-- `8xy7` SUBN: the flag `V[y] > V[x]`, then `V[x] <- (V[y] - V[x]) mod 256` from the registers after the flag write
(R131). -/
def execSubn (x y : Nibble) (s : State) : Result :=
  let t := s.flagGreater y x
  .next (t.setV x (t.getV y - t.getV x))

/-- `8xyE` SHL: `V[x] <- (V[x] << 1) mod 256`; `V[y]` is not read, VF is not written (R132). -/
def execShl (x _y : Nibble) (s : State) : Result := .next (s.setV x (s.getV x <<< 1))

/-- `Cxkk` RND: `V[x] <- rnd & kk`, with the step's `rnd` input (R133, log entry 2). -/
def execRnd (x : Nibble) (kk : Byte) (s : State) : Result := .next (s.setV x (s.rndIn &&& kk))

end Sys2Proof.Machine
end

