-- ==== Sys2Proof/Machine/Draw.lean ====
section
/-! DEFINITION. Display instructions (44_display.md). -/

namespace Sys2Proof.Machine

/-- `00E0` CLS: every cell 0; VF is not written (R161). -/
def execCls (s : State) : Result := .next (s.setDisp Display.blank)

/-- `Dxyn` DRW: the coordinates are read first; VF ends as 1 exactly when a set sprite bit met a set cell; cells are
XORed; `I`, `MEM` and all registers but VF are unchanged (R162). -/
def execDrw (x y n : Nibble) (s : State) : Result :=
  let drawn := plotAll s.disp (s.spritePixels (s.getV x).toNat (s.getV y).toNat n.toNat)
  .next ((s.setDisp drawn.1).setFlag (flagByte drawn.2))

end Sys2Proof.Machine
end

