-- ==== Sys2Proof/Machine/Flow.lean ====
section
/-! DEFINITION. Control transfer (41_flow.md). The state given to a meaning already has the advanced `PC` of
40_step_cycle.md R86. -/

namespace Sys2Proof.Machine

/-- `00EE` RET: `PC <- pop()`, or `CallStackUnderflow(0x00EE)` on an empty stack (R101, 60_exceptions.md R193). -/
def execRet (s : State) : Result :=
  match s.pop with
  | some (target, t) => .next (t.setPc target)
  | none => .next (s.raise .callStackUnderflow (encode .ret))

/-- `1nnn` JP: `PC <- zext_16(nnn)` (R102). -/
def execJp (nnn : Addr) (s : State) : Result := .next (s.setPc (zextAddr nnn))

/-- `2nnn` CALL: push the advanced `PC` and jump, or `CallStackOverflow(op)` on a full stack (R103, 60_exceptions.md
R194). -/
def execCall (nnn : Addr) (s : State) : Result :=
  match s.push s.pc with
  | some t => .next (t.setPc (zextAddr nnn))
  | none => .next (s.raise .callStackOverflow (encode (.call nnn)))

/-- `Bnnn` JPV0: `PC <- zext_16(nnn) + zext_16(V[0])` (R104). -/
def execJpv0 (nnn : Addr) (s : State) : Result := .next (s.setPc (zextAddr nnn + zextByte (s.getV 0)))

/-- `3xkk` SEK: skip if `V[x] = kk` (R106). -/
def execSek (x : Nibble) (kk : Byte) (s : State) : Result := .next (s.skipIf (s.getV x == kk))

/-- `4xkk` SNEK: skip if `V[x] != kk` (R107). -/
def execSnek (x : Nibble) (kk : Byte) (s : State) : Result := .next (s.skipIf (s.getV x != kk))

/-- `5xy0` SER: skip if `V[x] = V[y]` (R108). -/
def execSer (x y : Nibble) (s : State) : Result := .next (s.skipIf (s.getV x == s.getV y))

/-- `9xy0` SNER: skip if `V[x] != V[y]` (R109). -/
def execSner (x y : Nibble) (s : State) : Result := .next (s.skipIf (s.getV x != s.getV y))

end Sys2Proof.Machine
end

