-- ==== Sys2Proof/Machine/IndexMemory.lean ====
section
/-! DEFINITION. Index register and memory instructions (43_index_memory.md). `I` is changed by the first three only
(R140). -/

namespace Sys2Proof.Machine

/-- `Annn` LDI: `I <- zext_16(nnn)` (R141). -/
def execLdi (nnn : Addr) (s : State) : Result := .next (s.setI (zextAddr nnn))

/-- `Fx1E` ADDI: `I <- (I + zext_16(V[x])) mod 65536`, no flag (R142). -/
def execAddi (x : Nibble) (s : State) : Result := .next (s.setI (s.i + zextByte (s.getV x)))

/-- `Fx29` FONT: `I <- 5 * zext_16(V[x])`, all 8 bits of `V[x]` (R143). -/
def execFont (x : Nibble) (s : State) : Result := .next (s.setI (glyphAddr (s.getV x)))

/-- `Fx33` BCD: hundreds, tens and ones of `V[x]` to `MEM[I..I+2]` (R144). -/
def execBcd (x : Nibble) (s : State) : Result := .next (s.memWrite s.dataBase (bcdDigits (s.getV x)))

/-- `Fx55` STORE: `V0..Vx` to `MEM[I..I+x]` (R145). -/
def execStore (x : Nibble) (s : State) : Result := .next (s.memWrite s.dataBase (s.regBlock (x.toNat + 1)))

/-- `Fx65` LOAD: `MEM[I..I+x]` to `V0..Vx` (R146). -/
def execLoad (x : Nibble) (s : State) : Result := .next (s.loadBlock (x.toNat + 1))

end Sys2Proof.Machine
end

