-- ==== Sys2Proof/Machine/KeyTimer.lean ====
section
/-! DEFINITION. Keyboard and timer instructions (45_keyboard_timers.md). -/

namespace Sys2Proof.Machine

/-- `Ex9E` SKP: skip if `KEY = V[x]`, all 8 bits (R171). -/
def execSkp (x : Nibble) (s : State) : Result := .next (s.skipIf (s.key == s.getV x))

/-- `ExA1` SKNP: skip if `KEY != V[x]` (R172). -/
def execSknp (x : Nibble) (s : State) : Result := .next (s.skipIf (s.key != s.getV x))

/-- `Fx07` GETDT: `V[x] <- DT` (R174). -/
def execGetdt (x : Nibble) (s : State) : Result := .next (s.setV x s.dt)

/-- `Fx0A` WAITK: `WAITX <- x ; WAIT <- 1`; the store is done by a later step's stall check (R173). -/
def execWaitk (x : Nibble) (s : State) : Result := .next ((s.setWaitX x).setWait true)

/-- `Fx15` SETDT: `DT <- V[x]`; `LAST_TICK` is not changed (R175). -/
def execSetdt (x : Nibble) (s : State) : Result := .next (s.setDt (s.getV x))

/-- `Fx18` SETST: `ST <- V[x]` (R176). -/
def execSetst (x : Nibble) (s : State) : Result := .next (s.setSt (s.getV x))

end Sys2Proof.Machine
end

