-- ==== Sys2Proof/Machine/Dispatch.lean ====
section
/-! DEFINITION. Dispatch: each instruction to its meaning (40_step_cycle.md R87). -/

namespace Sys2Proof.Machine

def exec (i : Instr) (s : State) : Host.Outcome State Fault Refusal :=
  match i with
  | .cls => Sys2Proof.Machine.execCls s
  | .ret => Sys2Proof.Machine.execRet s
  | .jp nnn => Sys2Proof.Machine.execJp nnn s
  | .call nnn => Sys2Proof.Machine.execCall nnn s
  | .sek x kk => Sys2Proof.Machine.execSek x kk s
  | .snek x kk => Sys2Proof.Machine.execSnek x kk s
  | .ser x y => Sys2Proof.Machine.execSer x y s
  | .ldk x kk => Sys2Proof.Machine.execLdk x kk s
  | .addk x kk => Sys2Proof.Machine.execAddk x kk s
  | .mov x y => Sys2Proof.Machine.execMov x y s
  | .or x y => Sys2Proof.Machine.execOr x y s
  | .and x y => Sys2Proof.Machine.execAnd x y s
  | .xor x y => Sys2Proof.Machine.execXor x y s
  | .add x y => Sys2Proof.Machine.execAdd x y s
  | .sub x y => Sys2Proof.Machine.execSub x y s
  | .shr x y => Sys2Proof.Machine.execShr x y s
  | .subn x y => Sys2Proof.Machine.execSubn x y s
  | .shl x y => Sys2Proof.Machine.execShl x y s
  | .sner x y => Sys2Proof.Machine.execSner x y s
  | .ldi nnn => Sys2Proof.Machine.execLdi nnn s
  | .jpv0 nnn => Sys2Proof.Machine.execJpv0 nnn s
  | .rnd x kk => Sys2Proof.Machine.execRnd x kk s
  | .drw x y n => Sys2Proof.Machine.execDrw x y n s
  | .skp x => Sys2Proof.Machine.execSkp x s
  | .sknp x => Sys2Proof.Machine.execSknp x s
  | .getdt x => Sys2Proof.Machine.execGetdt x s
  | .waitk x => Sys2Proof.Machine.execWaitk x s
  | .setdt x => Sys2Proof.Machine.execSetdt x s
  | .setst x => Sys2Proof.Machine.execSetst x s
  | .addi x => Sys2Proof.Machine.execAddi x s
  | .font x => Sys2Proof.Machine.execFont x s
  | .bcd x => Sys2Proof.Machine.execBcd x s
  | .store x => Sys2Proof.Machine.execStore x s
  | .load x => Sys2Proof.Machine.execLoad x s

end Sys2Proof.Machine
end

