-- ==== Sys2Proof/Machine/Cycle.lean ====
section
/-! DEFINITION. The step with its inputs as arguments (40_step_cycle.md R80), and where the model's `step` takes those
inputs from (log entries 1 and 2). -/

namespace Sys2Proof.Machine

/-- Phase 6: a row of the opcode table matches and its instruction is performed, or no row matches and
`UnsupportedOpcode(op)` is raised (R87, R88). -/
def dispatch (op : Word) (s : State) : Result :=
  match decodeWord op with
  | some i => exec i s
  | none => .next (s.raise .unsupportedOpcode op)

/-- `step(now, rnd)` (R80): the halt gate (R81), the timer tick (R82), the stall check (R83), then fetch (R84), advance
(R86) and dispatch (R87). -/
def stepWith (now : Nat) (rnd : Byte) (s : State) : Result :=
  if s.halt then .next s
  else
    let ticked := (s.latchInputs now rnd).timerTick
    if ticked.wait then .next ticked.stallCheck
    else dispatch ticked.fetchWord ticked.advancePc

/-- The `now` input of the next step: some time after the latest one, so that it never decreases (60_exceptions.md
R200). -/
def State.nextNow (s : State) : Nat := s.nowIn + Config.elapsed s.stepNo

/-- The `rnd` input of the next step: a byte under no law (42_alu.md R133). -/
def State.nextRnd (s : State) : Byte := Config.rnd s.stepNo

/-- One step with the free inputs of its number. -/
def stepFree (s : State) : Result := stepWith s.nextNow s.nextRnd s

/-- The state with the two bytes of `w` where the next step fetches, high byte first (R84). -/
def State.placeWord (s : State) (w : Word) : State := s.memWrite s.pc.toNat [highByte w, lowByte w]

/-- The state whose next step fetches: not halted and not waiting (R80, phases 0 and 2). -/
def State.awaken (s : State) : State := { s with halt := false, wait := false }

end Sys2Proof.Machine
end

