-- ==== Sys2Proof/Machine/Step.lean ====
section
/-! DEFINITION. One step of the machine, and a probe that places an instruction where the next step fetches it. -/

namespace Sys2Proof.Machine

/-- One step: `step(now, rnd)` of 40_step_cycle.md R80 with free inputs (log entries 1 and 2). -/
def step (s : State) : Host.Outcome State Fault Refusal := stepFree s

/-- `s` with the instruction whose bits are `w`, numbered as spec/opcode_table.json numbers them, where the next step
fetches, and with nothing (a halt, a pending key wait) that would keep that step from fetching (log entry 6). -/
def State.withFetchWord (s : State) (nbits w : Nat) : State :=
  (s.placeWord (BitVec.ofNat 16 (w % 2 ^ nbits))).awaken

end Sys2Proof.Machine
end

