-- ==== Sys2Proof/Machine/HostOps.lean ====
section
/-! DEFINITION. The host operations, the core's only interface (10_state.md R30): reset, program load, key operations
and the reads. Each is atomic and happens between two steps (R31); the model's `step` performs none of them (log entry
7). -/

namespace Sys2Proof.Machine

/-! ### Reset and load (70_reset_and_hazards.md) -/

/-- `initialize(now)`: the cold reset (R231). The model's own counter of free inputs goes on, so that the inputs after
a reset are not those before it (log entry 3). -/
def State.coldReset (now : Nat) (s : State) : State := { State.resetAt now with stepNo := s.stepNo }

/-- What `load_program` returns (10_state.md R30). -/
inductive LoadReport where
  | ok
  /-- The program does not fit between 0x200 and the end of memory (R233, 60_exceptions.md R195). -/
  | programTooLarge
deriving DecidableEq, Repr

/-- Each word as two bytes, high byte first (R232). -/
def wordsToBytes (words : List Word) : List Byte := words.flatMap fun w => [highByte w, lowByte w]

/-- Memory after a load: zero, the font at 0x000, the program at 0x200 (R232, 20_memory.md R41). -/
def loadImage (font : Vector Byte 80) (words : List Word) : Memory :=
  (Memory.writeBytes [] 0 font.toList).writeBytes Config.progBase (wordsToBytes words)

/-- `load_program(words)` for a given font: memory and `PC` only, or a rejection that changes nothing (R232, R233). -/
def State.loadProgramWith (font : Vector Byte 80) (words : List Word) (s : State) : State × LoadReport :=
  if programFits words then
    ({ s with mem := loadImage font words, pc := BitVec.ofNat 16 Config.progBase }, .ok)
  else (s, .programTooLarge)

/-- `load_program(words)` with the machine's font parameter (R232, log entry 5). -/
def State.loadProgram (words : List Word) (s : State) : State × LoadReport := s.loadProgramWith Config.font words

/-- The loader in front of the core: a byte stream as big-endian words, a last odd byte dropped (R234). -/
def packWords : List Byte → List Word
  | hi :: lo :: rest => wordOfBytes hi lo :: packWords rest
  | _ => []

/-! ### Keys (60_exceptions.md R206) -/

/-- `set_key(k)`: `KEY <- zext_8(k)`. -/
def State.pressKey (k : Nibble) (s : State) : State := s.setKey (k.setWidth 8)

/-- `clear_key()`: `KEY <- 0`. -/
def State.releaseKey (s : State) : State := s.setKey 0

/-! ### Reads (60_exceptions.md R207, R208, R191) -/

/-- The display as 2048 bytes of value 0 or 1, row-major (R207). -/
def State.readDisplay (s : State) : List Byte :=
  (List.range Config.dispCells).map fun j => if s.disp.cell j then 1 else 0

/-- `sound_active = (ST != 0)` (R208). -/
def State.soundActive (s : State) : Bool := s.st != 0

/-- The status registers as the host reads them (10_state.md R23, R30). -/
def State.status (s : State) : Bool × BitVec 2 × Word := (s.halt, s.fcause, s.fval)

/-- What `step` returns: ok, or the fatal condition just raised with its opcode (40_step_cycle.md R89). -/
inductive StepReport where
  | ok
  | fatal (cause : BitVec 2) (op : Word)
deriving DecidableEq, Repr

/-- The report of the step from `s` to `t`; a step of a halted core reports ok (R89). -/
def stepReport (s t : State) : StepReport := if !s.halt && t.halt then .fatal t.fcause t.fval else .ok

/-! ### All of them as one type -/

/-- The operations that can change the state (10_state.md R30). The reads change nothing. -/
inductive HostOp where
  /-- `initialize(now)`. -/
  | coldReset (now : Nat)
  /-- `load_program(words)`. -/
  | loadProgram (words : List Word)
  /-- `step(now, rnd)`. -/
  | step (now : Nat) (rnd : Byte)
  /-- `set_key(k)`. -/
  | setKey (k : Nibble)
  /-- `clear_key()`. -/
  | clearKey
deriving DecidableEq, Repr

/-- The state an operation leads to. -/
def HostOp.apply (op : HostOp) (s : State) : Result :=
  match op with
  | .coldReset now => .next (s.coldReset now)
  | .loadProgram words => .next (s.loadProgram words).1
  | .step now rnd => stepWith now rnd s
  | .setKey k => .next (s.pressKey k)
  | .clearKey => .next s.releaseKey

/-- The latest `now` the host has passed, after an operation. It is the host's to remember, not the core's: a step of a
halted core passes a `now` and changes nothing in the core (40_step_cycle.md R81). -/
def HostOp.clock (op : HostOp) (latest : Nat) : Nat :=
  match op with
  | .coldReset now => now
  | .step now _ => now
  | .loadProgram _ | .setKey _ | .clearKey => latest

/-- The host's duty: a `now` not smaller than any it passed before, `latest` being the greatest of those (R239,
60_exceptions.md R200). -/
def HostOp.contract (op : HostOp) (latest : Nat) : Bool := decide (latest ≤ op.clock latest)

end Sys2Proof.Machine
end

