-- ==== Sys2Proof/Safety.lean ====
section
/-! DEFINITION. The terms claims are stated in: which elements of the state a change leaves alone (frames), what each
instruction may write (10_state.md R25), the invariant of reachable states (R29) and what a safe state is. -/

namespace Sys2Proof.Safety

open Sys2Proof.Machine

/-- The elements of the state by name (10_state.md R10); `inputs` are the model's own three fields. -/
inductive Elem where
  | mem | v | i | pc | stack | sp | dt | st | disp | key | wait | waitX | lastTick | halt | fcause | fval | inputs
deriving DecidableEq, Repr

/-- The element reads the same in both states. Memory is compared byte by byte through the machine's own read, registers
through theirs. -/
def Elem.Same (e : Elem) (s t : State) : Prop :=
  match e with
  | .mem => ∀ a : Nat, t.byteAt a = s.byteAt a
  | .v => ∀ r : Nibble, t.getV r = s.getV r
  | .i => t.i = s.i
  | .pc => t.pc = s.pc
  | .stack => t.stack = s.stack
  | .sp => t.sp = s.sp
  | .dt => t.dt = s.dt
  | .st => t.st = s.st
  | .disp => t.disp = s.disp
  | .key => t.key = s.key
  | .wait => t.wait = s.wait
  | .waitX => t.waitX = s.waitX
  | .lastTick => t.lastTick = s.lastTick
  | .halt => t.halt = s.halt
  | .fcause => t.fcause = s.fcause
  | .fval => t.fval = s.fval
  | .inputs => t.nowIn = s.nowIn ∧ t.rndIn = s.rndIn ∧ t.stepNo = s.stepNo

/-- Every element but those listed is unchanged from `s` to `t`. -/
def FrameExcept (written : List Elem) (s t : State) : Prop := ∀ e : Elem, e ∉ written → e.Same s t

/-- Every general register but those listed is unchanged. -/
def RegsExcept (written : List Nibble) (s t : State) : Prop := ∀ r : Nibble, r ∉ written → t.getV r = s.getV r

/-- The elements an instruction may write: the "program" column of 10_state.md R25, instruction by instruction, and the
three registers `raise` writes for the two that can raise a fatal condition (60_exceptions.md R190). The advance of `PC`
by the step itself (40_step_cycle.md R86) is not part of it. -/
def writes : Instr → List Elem
  | .cls => [.disp]
  | .ret => [.pc, .sp, .halt, .fcause, .fval]
  | .jp _ => [.pc]
  | .call _ => [.pc, .stack, .sp, .halt, .fcause, .fval]
  | .sek _ _ | .snek _ _ | .ser _ _ | .sner _ _ | .skp _ | .sknp _ => [.pc]
  | .ldk _ _ | .addk _ _ | .mov _ _ | .or _ _ | .and _ _ | .xor _ _ | .add _ _ | .sub _ _ | .shr _ _ | .subn _ _
  | .shl _ _ | .rnd _ _ | .getdt _ | .load _ => [.v]
  | .ldi _ | .addi _ | .font _ => [.i]
  | .jpv0 _ => [.pc]
  | .drw _ _ _ => [.v, .disp]
  | .waitk _ => [.wait, .waitX]
  | .setdt _ => [.dt]
  | .setst _ => [.st]
  | .bcd _ | .store _ => [.mem]

/-- The general register an instruction names as its destination (42_alu.md, 45_keyboard_timers.md R174); `Fx65` names a
block and is none of these. -/
def destination : Instr → Option Nibble
  | .ldk x _ | .addk x _ | .rnd x _ | .getdt x => some x
  | .mov x _ | .or x _ | .and x _ | .xor x _ | .add x _ | .sub x _ | .shr x _ | .subn x _ | .shl x _ => some x
  | .cls | .ret | .jp _ | .call _ | .sek _ _ | .snek _ _ | .ser _ _ | .sner _ _ | .ldi _ | .jpv0 _ | .drw _ _ _
  | .skp _ | .sknp _ | .waitk _ | .setdt _ | .setst _ | .addi _ | .font _ | .bcd _ | .store _ | .load _ => none

/-- The instructions that write VF as a side effect: exactly `8xy4`, `8xy5`, `8xy7` and `Dxyn` (10_state.md R12). -/
def writesFlag : Instr → Bool
  | .add _ _ | .sub _ _ | .subn _ _ | .drw _ _ _ => true
  | .cls | .ret | .jp _ | .call _ | .sek _ _ | .snek _ _ | .ser _ _ | .sner _ _ | .ldi _ | .jpv0 _
  | .skp _ | .sknp _ | .waitk _ | .setdt _ | .setst _ | .addi _ | .font _ | .bcd _ | .store _ | .load _
  | .ldk _ _ | .addk _ _ | .rnd _ _ | .getdt _ | .mov _ _ | .or _ _ | .and _ _ | .xor _ _ | .shr _ _ | .shl _ _ =>
    false

/-- The encoding line of an instruction's rule: every word with `op & mask = value` decodes to the instruction with the
fields of that word (30_encoding.md R61, R75). -/
def EncodedAs (mask value : Word) (build : Word → Instr) : Prop :=
  ∀ op : Word, op &&& mask = value → decodeWord op = some (build op)

/-- A safe state: no fatal condition has occurred (10_state.md R23). -/
def SafeState (s : State) : Prop := s.halt = false

/-- The core is ready to execute: neither halted nor waiting for a key (40_step_cycle.md R91). -/
def Running (s : State) : Prop := s.halt = false ∧ s.wait = false

/-- `FVAL` agrees with `FCAUSE` (60_exceptions.md R190): nothing recorded without a condition, an unsupported word, the
return's word, a call's word. -/
def CauseMatchesValue (cause : BitVec 2) (op : Word) : Prop :=
  (cause = 0 → op = 0) ∧ (cause = 1 → decodeWord op = none) ∧ (cause = 2 → op = encode .ret) ∧
    (cause = 3 → ∃ nnn : Addr, op = encode (.call nnn))

/-- The invariant of reachable states (10_state.md R29): memory is canonical, the latch holds a key nibble, `FCAUSE` is
nonzero exactly when the core is halted, `FVAL` fits it, a halted core is not waiting, and the last tick is not in the
future. (`SP` is at most 16 and each display cell is 0 or 1 by their types.) -/
def Inv (s : State) : Prop :=
  s.mem.wf = true ∧ s.key.toNat ≤ 0x0F ∧ (s.fcause ≠ 0 ↔ s.halt = true) ∧ CauseMatchesValue s.fcause s.fval ∧
    ¬(s.halt = true ∧ s.wait = true) ∧ s.lastTick ≤ s.nowIn

/-- `Reachable latest s`: the state `s` is reached from `initialize` by host operations and steps, the host keeping its
contract, and `latest` is the latest `now` it has passed, a step of a halted core included (10_state.md R28, R29,
70_reset_and_hazards.md R239). -/
inductive Reachable : Nat → State → Prop where
  | created (now : Nat) : Reachable now (State.resetAt now)
  | next {latest : Nat} {s t : State} (op : HostOp) (before : Reachable latest s) (duty : op.contract latest = true)
      (done : op.apply s = .next t) : Reachable (op.clock latest) t

end Sys2Proof.Safety
end

