-- ==== Sys2Proof/Certificates/Slice0/Obligations.lean ====
section
/-! DEFINITION. The statements for the provers. Each docstring names the rules of spec/ it formalises. A state given to
`exec` already has the advanced `PC` (40_step_cycle.md R86). `stepWith now rnd` is `step(now, rnd)` of R80; `step` is it
with the free inputs of log entries 1 and 2. -/

open Sys2Proof Sys2Proof.Machine Sys2Proof.Safety

/-! ### Encoding -/

/-- Words of 95_test_vectors.md §2.1, at least one of every family, decode to their instructions; 0x0000, 0x00E1, 0x5001,
0x8128, 0x9ABF, 0xE19F and 0xF130 decode to none. -/
def Obligations.DecodeReadsTheSpecWords : Prop :=
  decodeWord 0x00E0 = some .cls ∧ decodeWord 0x00EE = some .ret ∧ decodeWord 0x1ABC = some (.jp 0xABC) ∧
  decodeWord 0x3A7F = some (.sek 0xA 0x7F) ∧ decodeWord 0x5AB0 = some (.ser 0xA 0xB) ∧
  decodeWord 0x8125 = some (.sub 1 2) ∧ decodeWord 0x812E = some (.shl 1 2) ∧ decodeWord 0xC10F = some (.rnd 1 0x0F) ∧
  decodeWord 0xA123 = some (.ldi 0x123) ∧ decodeWord 0xF233 = some (.bcd 2) ∧ decodeWord 0xFF65 = some (.load 0xF) ∧
  decodeWord 0xD125 = some (.drw 1 2 5) ∧ decodeWord 0xE2A1 = some (.sknp 2) ∧ decodeWord 0xF315 = some (.setdt 3) ∧
  decodeWord 0x0000 = none ∧ decodeWord 0x00E1 = none ∧ decodeWord 0x5001 = none ∧ decodeWord 0x8128 = none ∧
  decodeWord 0x9ABF = none ∧ decodeWord 0xE19F = none ∧ decodeWord 0xF130 = none

/-- Decoding the word of any instruction, with every operand at every value, gives that instruction back (R61, R62,
R64), as a word and as the two bytes in memory followed by anything (R60). -/
def Obligations.DecodeOfEncodeIsTheInstruction : Prop :=
  ∀ i : Instr, decodeWord (encode i) = some i ∧
    ∀ rest : List Byte, decodeBytes (encodeBytes i ++ rest) = .ok (i, rest)

/-- A word that decodes is the word of the instruction it decodes to: no bit is dropped, the ignored `y` of the shifts
included (R71). -/
def Obligations.EncodeOfDecodeIsTheWord : Prop :=
  ∀ (w : Word) (i : Instr), decodeWord w = some i → encode i = w

/-- The decoder is the opcode table: a word decodes to none exactly when it selects no row (R70), and a word that
decodes to an instruction selects that instruction's row (R75). -/
def Obligations.UnsupportedWordsMatchNoRow : Prop :=
  ∀ op : Word,
    (decodeWord op = none ↔ ∀ r ∈ opcodeRows, op &&& r.mask ≠ r.value) ∧
    (∀ i : Instr, decodeWord op = some i → op &&& (opcodeRow i).mask = (opcodeRow i).value)

/-- "No two rows overlap" (R75): a word selects at most one row. -/
def Obligations.OpcodeRowsDoNotOverlap : Prop :=
  ∀ (op : Word) (r q : OpcodeRow), r ∈ opcodeRows → q ∈ opcodeRows →
    op &&& r.mask = r.value → op &&& q.mask = q.value → r = q

/-! ### The step -/

/-- A running core steps by ticking its timers, fetching, advancing `PC` by 2 and performing the decoded instruction
(R80, R86, R87), whatever the two inputs; the model's `step` is the case of its free inputs. -/
def Obligations.StepRunsTheDecodedInstruction : Prop :=
  ∀ (s : State) (i : Instr), Running s → decodeWord s.fetchWord = some i →
    step s = exec i (s.latchInputs s.nextNow s.nextRnd).timerTick.advancePc ∧
    ∀ (now : Nat) (rnd : Byte), stepWith now rnd s = exec i (s.latchInputs now rnd).timerTick.advancePc

/-- R81: a step of a halted core changes nothing at all, so neither do any number of steps, and no host operation but
`initialize` leaves the condition. -/
def Obligations.HaltedCoreIsAFixedPoint : Prop :=
  ∀ s : State, s.halt = true →
    (∀ (now : Nat) (rnd : Byte), stepWith now rnd s = .next s) ∧
    (∀ k : Nat, Host.Core.run Sys2Proof.core k s = .next s) ∧
    (∀ (op : HostOp) (t : State), op.apply s = .next t → (∀ now : Nat, op ≠ .coldReset now) → t.halt = true) ∧
    (∀ now : Nat, ∃ t : State, (HostOp.coldReset now).apply s = .next t ∧ t.halt = false)

/-- R83: with `WAIT = 1` a step fetches nothing and leaves `PC`. With a key latched it writes the key to `V[WAITX]` and
clears `WAIT`, and the step after it fetches the word that stood at `PC` all along; with none it does nothing beyond the
timer tick. -/
def Obligations.StalledStepWaitsOrWakes : Prop :=
  ∀ (s : State) (now : Nat) (rnd : Byte), s.halt = false → s.wait = true →
    (s.key = 0 → ∃ t : State, stepWith now rnd s = .next t ∧
      FrameExcept [] (s.latchInputs now rnd).timerTick t) ∧
    (s.key ≠ 0 → ∃ t : State, stepWith now rnd s = .next t ∧ t.getV s.waitX = s.key ∧ Running t ∧
      t.fetchWord = s.fetchWord ∧ RegsExcept [s.waitX] s t ∧
      FrameExcept [.v, .wait] (s.latchInputs now rnd).timerTick t)

/-- R200: a tick is due when 16 ms have passed since `LAST_TICK`; a due tick lowers each nonzero timer by one, however
late it is, and sets `LAST_TICK` to `now`; otherwise nothing changes (the fields that hold the step's inputs are the
model's own, log entries 1 to 3, and nothing is said of them here). (A host never passes a `now` below `LAST_TICK`.)
It is phase 1 of every step of a core that is not halted: the rest of the step starts from the ticked state. -/
def Obligations.TimerTickDecrementsOnce : Prop :=
  ∀ (s : State) (now : Nat) (rnd : Byte),
    let t := (s.latchInputs now rnd).timerTick
    (s.lastTick + 16 ≤ now →
      t.dt.toNat = s.dt.toNat - 1 ∧ t.st.toNat = s.st.toNat - 1 ∧ t.lastTick = now) ∧
    (s.lastTick ≤ now → now < s.lastTick + 16 → t.dt = s.dt ∧ t.st = s.st ∧ t.lastTick = s.lastTick) ∧
    FrameExcept [.dt, .st, .lastTick, .inputs] s t ∧
    (s.halt = false →
      stepWith now rnd s = if s.wait then .next t.stallCheck else dispatch t.fetchWord t.advancePc)

/-- R88: a fetched word that matches no row sets `HALT`, `FCAUSE = 1` and `FVAL` to the word, and nothing else changes
after phase 5: `PC` is the address of the word plus 2. -/
def Obligations.UnsupportedWordHaltsTheCore : Prop :=
  ∀ (s : State) (now : Nat) (rnd : Byte), Running s → decodeWord s.fetchWord = none →
    ∃ t : State, stepWith now rnd s = .next t ∧ t.halt = true ∧ t.fcause = 1 ∧ t.fval = s.fetchWord ∧
      t.pc = s.pc + 2 ∧
      FrameExcept [.halt, .fcause, .fval] (s.latchInputs now rnd).timerTick.advancePc t

/-- R190: a running core halts in a step exactly on an unsupported word, on `00EE` with an empty stack or on `2nnn` with
a full one, and reports the condition with its code and the opcode; in every other step it reports ok (R89; the report is
read off the two states, log entry 8). -/
def Obligations.OnlyThreeEventsHalt : Prop :=
  ∀ (s t : State) (now : Nat) (rnd : Byte), Running s → stepWith now rnd s = .next t →
    (decodeWord s.fetchWord = none → t.halt = true ∧ stepReport s t = .fatal 1 s.fetchWord) ∧
    (decodeWord s.fetchWord = some .ret → s.sp.val = 0 → t.halt = true ∧ stepReport s t = .fatal 2 0x00EE) ∧
    (∀ nnn : Addr, decodeWord s.fetchWord = some (.call nnn) → s.sp.val = 16 →
      t.halt = true ∧ stepReport s t = .fatal 3 s.fetchWord) ∧
    (decodeWord s.fetchWord ≠ none → (decodeWord s.fetchWord = some .ret → s.sp.val ≠ 0) →
      (∀ nnn : Addr, decodeWord s.fetchWord = some (.call nnn) → s.sp.val ≠ 16) →
      t.halt = false ∧ stepReport s t = .ok)

/-- R196: every instruction answers a next state in every state, and every one but `00EE` and `2nnn` leaves `HALT`,
`FCAUSE` and `FVAL` alone; so every step answers a next state. -/
def Obligations.EveryInstructionCompletes : Prop :=
  (∀ (i : Instr) (s : State), ∃ t : State, exec i s = .next t ∧
    (i ≠ .ret → (∀ nnn : Addr, i ≠ .call nnn) → t.halt = s.halt ∧ t.fcause = s.fcause ∧ t.fval = s.fval)) ∧
  (∀ s : State, ∃ t : State, step s = .next t) ∧
  (∀ (s : State) (now : Nat) (rnd : Byte), ∃ t : State, stepWith now rnd s = .next t)

/-- R25, the "program" column, instruction by instruction: an instruction changes no element that the table does not let
it write. -/
def Obligations.InstructionsWriteOnlyTheirElements : Prop :=
  ∀ (i : Instr) (s t : State), exec i s = .next t → FrameExcept (writes i) s t

/-- R12: a general register that an instruction changes is its destination, or VF of one of the four instructions that
write the flag, or one of the block `V0..Vx` of `Fx65`. -/
def Obligations.RegistersChangeOnlyByDestinationOrFlag : Prop :=
  ∀ (i : Instr) (s t : State) (r : Nibble), exec i s = .next t → t.getV r ≠ s.getV r →
    destination i = some r ∨ (r = 15 ∧ writesFlag i = true) ∨ ∃ x : Nibble, i = .load x ∧ r.toNat ≤ x.toNat

/-- R92: `rnd` is used only by `Cxkk` and `now` only by the tick. Two steps from one state with the same tick decision end
alike up to `LAST_TICK` and the model's latched inputs (log entries 1 to 3), unless a ready core executes a `Cxkk`; then
they end alike up to the register it names too, and alike in it when `rnd` is the same. With the same `now` they agree on
`LAST_TICK`. No `now` lies before `LAST_TICK`, as a host never passes one (R200). -/
def Obligations.InputsMatterOnlyThroughTickAndRnd : Prop :=
  ∀ (s t u : State) (now now' : Nat) (rnd rnd' : Byte), s.lastTick ≤ now → s.lastTick ≤ now' →
    (s.lastTick + 16 ≤ now ↔ s.lastTick + 16 ≤ now') →
    stepWith now rnd s = .next t → stepWith now' rnd' s = .next u →
    ((Running s → ∀ (x : Nibble) (kk : Byte), decodeWord s.fetchWord ≠ some (.rnd x kk)) →
      FrameExcept [.lastTick, .inputs] t u) ∧
    (∀ (x : Nibble) (kk : Byte), decodeWord s.fetchWord = some (.rnd x kk) →
      RegsExcept [x] t u ∧ FrameExcept [.v, .lastTick, .inputs] t u ∧ (rnd = rnd' → u.getV x = t.getV x)) ∧
    (now = now' → u.lastTick = t.lastTick)

/-- The model's own three fields hold the inputs of the latest step of a core that was not halted, and count such steps
(log entries 1 to 3, DESIGN CHOICE; the inputs themselves are R24's). A step of a halted core leaves them. -/
def Obligations.InputsAreLatchedByEveryLiveStep : Prop :=
  ∀ (s t : State) (now : Nat) (rnd : Byte), stepWith now rnd s = .next t →
    (s.halt = false → t.nowIn = now ∧ t.rndIn = rnd ∧ t.stepNo = s.stepNo + 1) ∧
    (s.halt = true → t.nowIn = s.nowIn ∧ t.rndIn = s.rndIn ∧ t.stepNo = s.stepNo)

/-- The invariant of R29 (`Inv`) is kept by every step of the machine. That memory is canonical and that `LAST_TICK` is
not after the latest `now` are said of the model's own shapes and fields (log entries 11 and 1). -/
def Obligations.InvKeptByStep : Prop :=
  ∀ s t : State, Inv s → step s = .next t → Inv t

/-- The invariant of R29 (`Inv`) holds right after reset, whatever the time of the reset. That memory is canonical and
that `LAST_TICK` is not after the latest `now` are said of the model's own shapes and fields (log entries 11 and 1). -/
def Obligations.InvAtReset : Prop := Inv State.reset ∧ ∀ now : Nat, Inv (State.resetAt now)

/-- Every operation of the host, a step with any inputs among them, keeps the invariant of R29 and the bound of the
core's `now` by the latest the host has passed, for a host that never passes a decreasing one (R239). That memory is
canonical and that `LAST_TICK` is not after the latest `now` are said of the model's own shapes and fields (log
entries 11 and 1). -/
def Obligations.InvKeptByHostOperations : Prop :=
  ∀ (op : HostOp) (latest : Nat) (s t : State), Inv s → s.nowIn ≤ latest → op.contract latest = true →
    op.apply s = .next t → Inv t ∧ t.nowIn ≤ op.clock latest

/-- R29: the invariant holds in every state reachable from `initialize` by host operations and steps, for a host that
never passes a decreasing `now` (R239). That memory is canonical and that `LAST_TICK` is not after the latest `now` are
said of the model's own shapes and fields (log entries 11 and 1). -/
def Obligations.InvHoldsInEveryReachableState : Prop :=
  ∀ (latest : Nat) (s : State), Reachable latest s → Inv s ∧ s.nowIn ≤ latest

/-- R93: at a jump to its own address every further step leaves everything unchanged but the timers, `LAST_TICK` and the
model's latched inputs. -/
def Obligations.IdleLoopStaysPut : Prop :=
  ∀ (s : State) (nnn : Addr) (k : Nat), Running s → decodeWord s.fetchWord = some (.jp nnn) →
    s.pc.toNat = nnn.toNat →
    ∃ t : State, Host.Core.run Sys2Proof.core k s = .next t ∧ FrameExcept [.dt, .st, .lastTick, .inputs] s t

/-- R90, the wait-for-key state machine: a running core enters the wait exactly by `Fx0A`, a waiting core leaves it in a
step exactly when the latch is nonzero, and among the other host operations only `initialize` touches it. -/
def Obligations.WaitFlagStateMachine : Prop :=
  (∀ (s t : State) (now : Nat) (rnd : Byte), Running s → stepWith now rnd s = .next t →
    (t.wait = true ↔ ∃ x : Nibble, decodeWord s.fetchWord = some (.waitk x)) ∧
    (∀ x : Nibble, decodeWord s.fetchWord = some (.waitk x) → t.waitX = x ∧ t.pc = s.pc + 2)) ∧
  (∀ (s t : State) (now : Nat) (rnd : Byte), s.halt = false → s.wait = true → stepWith now rnd s = .next t →
    (t.wait = false ↔ s.key ≠ 0)) ∧
  (∀ (s t : State) (op : HostOp), op.apply s = .next t →
    (∀ now : Nat, op = .coldReset now → t.wait = false) ∧
    ((∃ words : List Word, op = .loadProgram words) ∨ (∃ k : Nibble, op = .setKey k) ∨ op = .clearKey →
      t.wait = s.wait ∧ t.waitX = s.waitX))

/-- R29, R201: in one step a timer stays, falls by exactly one (never below zero), or was written by its own
instruction with the register it names. -/
def Obligations.TimersChangeOnlyByTickOrWrite : Prop :=
  ∀ (s t : State) (now : Nat) (rnd : Byte), stepWith now rnd s = .next t →
    (t.dt = s.dt ∨ t.dt.toNat + 1 = s.dt.toNat ∨
      ∃ x : Nibble, decodeWord s.fetchWord = some (.setdt x) ∧ t.dt = s.getV x) ∧
    (t.st = s.st ∨ t.st.toNat + 1 = s.st.toNat ∨
      ∃ x : Nibble, decodeWord s.fetchWord = some (.setst x) ∧ t.st = s.getV x)

/-- R53: a store performed by one instruction is seen by the next fetch. When `Fx55` has written both bytes of the next
opcode, the fetch reads the two registers stored there. -/
def Obligations.StoreIsSeenByTheNextFetch : Prop :=
  ∀ (s t : State) (x : Nibble) (k : Nat), exec (.store x) s = .next t → k + 1 ≤ x.toNat →
    s.pc.toNat % 4096 = (s.dataBase + k) % 4096 →
    t.fetchWord = wordOfBytes (s.getV (BitVec.ofNat 4 k)) (s.getV (BitVec.ofNat 4 (k + 1)))

/-- R19: the display is "mutated only by the clear-screen and draw-sprite opcodes"; memory by `Fx33` and `Fx55` only
(R25). -/
def Obligations.DisplayAndMemoryHaveTheirOwnWriters : Prop :=
  ∀ (s t : State) (now : Nat) (rnd : Byte), stepWith now rnd s = .next t →
    (t.disp ≠ s.disp → decodeWord s.fetchWord = some .cls ∨
      ∃ x y n : Nibble, decodeWord s.fetchWord = some (.drw x y n)) ∧
    (∀ a : Nat, t.byteAt a ≠ s.byteAt a →
      ∃ x : Nibble, decodeWord s.fetchWord = some (.bcd x) ∨ decodeWord s.fetchWord = some (.store x))

/-- R20: no step changes the keyboard latch. -/
def Obligations.KeyLatchIsTheHostsAlone : Prop :=
  ∀ (s t : State) (now : Nat) (rnd : Byte), stepWith now rnd s = .next t → t.key = s.key

/-- R46: every access, read or write, is at the address reduced modulo 4096. -/
def Obligations.MemoryAddressesWrap : Prop :=
  ∀ (s : State) (a : Nat) (bytes : List Byte),
    s.byteAt (a + 4096) = s.byteAt a ∧ s.memWrite (a + 4096) bytes = s.memWrite a bytes ∧
    (s.memWrite a bytes = s.memWrite (a % 4096) bytes)

/-- R84: the opcode is the byte at `PC mod 4096` in bits 15..8 and the byte at `(PC + 1) mod 4096` in bits 7..0, for any
`PC`, even or odd. -/
def Obligations.FetchIsBigEndian : Prop :=
  ∀ s : State, s.fetchWord.toNat =
    256 * (s.mem.read (s.pc.toNat % 4096)).toNat + (s.mem.read ((s.pc.toNat + 1) % 4096)).toNat

/-! ### Host operations -/

/-- R231: after `initialize(now)` every element is zero but `LAST_TICK`, which is `now`; every cell of memory reads 0 (no
font), every register, stack entry and display cell too. -/
def Obligations.ColdResetClearsEverything : Prop :=
  ∀ (s : State) (now : Nat), ∃ t : State, (HostOp.coldReset now).apply s = .next t ∧
    (∀ a : Nat, t.byteAt a = 0) ∧ (∀ r : Nibble, t.getV r = 0) ∧ t.i = 0 ∧ t.pc = 0 ∧
    (∀ (k : Nat) (h : k < 16), t.stack[k] = 0) ∧ t.sp = 0 ∧ t.dt = 0 ∧ t.st = 0 ∧
    (∀ j : Nat, t.disp.cell j = false) ∧ t.key = 0 ∧ t.wait = false ∧ t.waitX = 0 ∧ t.lastTick = now ∧
    t.halt = false ∧ t.fcause = 0 ∧ t.fval = 0

/-- R232: an accepted load leaves the font at 0x000, the program at 0x200 with each word high byte first, zero
everywhere else, and `PC` at 0x200; nothing else changes. For every font, the machine's own among them. -/
def Obligations.LoadProgramLaysOutMemory : Prop :=
  ∀ (font : Vector Byte 80) (words : List Word) (s : State), 0x200 + 2 * words.length ≤ 4096 →
    let t := (s.loadProgramWith font words).1
    (s.loadProgramWith font words).2 = .ok ∧
    (∀ (a : Nat) (h : a < 80), t.byteAt a = font[a]) ∧
    (∀ (j : Nat) (h : j < words.length), t.byteAt (0x200 + 2 * j) = highByte words[j] ∧
      t.byteAt (0x200 + 2 * j + 1) = lowByte words[j]) ∧
    (∀ a : Nat, a < 4096 → 80 ≤ a → (a < 0x200 ∨ 0x200 + 2 * words.length ≤ a) → t.byteAt a = 0) ∧
    t.pc = 0x200 ∧ FrameExcept [.mem, .pc] s t ∧
    s.loadProgram words = s.loadProgramWith Config.font words

/-- R233: a program is rejected exactly when it has more than 1792 words, and then no element of the state changes. -/
def Obligations.LoadProgramRejectsTooLarge : Prop :=
  ∀ (words : List Word) (s : State),
    ((s.loadProgram words).2 = .programTooLarge ↔ 1792 < words.length) ∧
    ((s.loadProgram words).2 = .programTooLarge → (s.loadProgram words).1 = s)

/-- R44: "a word loaded at an even offset is fetched back unchanged". -/
def Obligations.LoadedWordIsFetchedBack : Prop :=
  ∀ (words : List Word) (s : State) (j : Nat) (h : j < words.length), 0x200 + 2 * words.length ≤ 4096 →
    ((s.loadProgram words).1.setPc (BitVec.ofNat 16 (0x200 + 2 * j))).fetchWord = words[j]

/-- R206: `set_key(k)` writes the nibble to the latch, `clear_key()` writes 0, and neither changes anything else;
`set_key(0)` is `clear_key()` (R177). -/
def Obligations.KeyOperationsWriteTheLatch : Prop :=
  ∀ (s : State) (k : Nibble),
    (∃ t : State, (HostOp.setKey k).apply s = .next t ∧ t.key.toNat = k.toNat ∧ FrameExcept [.key] s t) ∧
    (∃ t : State, HostOp.clearKey.apply s = .next t ∧ t.key = 0 ∧ FrameExcept [.key] s t) ∧
    (HostOp.setKey 0).apply s = HostOp.clearKey.apply s

/-- R207, R208: the display read has 2048 bytes, byte `j` being 1 when cell `j` is set and 0 when not; the sound bit is
`ST != 0`. -/
def Obligations.HostReadsShowDisplayAndSound : Prop :=
  ∀ s : State,
    s.readDisplay.length = 2048 ∧
    (∀ (j : Nat) (h : j < s.readDisplay.length), s.readDisplay[j] = if s.disp.cell j then 1 else 0) ∧
    (s.soundActive = true ↔ s.st.toNat ≠ 0)

/-- R237: after `initialize` alone `PC = 0` and memory is zero, so the first step fetches 0x0000 at address 0 and raises
`UnsupportedOpcode(0x0000)`, leaving `PC = 0x0002` and the core halted. R237 is an inference the spec marks as its own
("[derived: from rule R231, 40_step_cycle.md rule R80 and 30_encoding.md rule R65]"); what is raised is R88's. -/
def Obligations.StepWithoutLoadHalts : Prop :=
  ∀ (s : State) (now now' : Nat) (rnd : Byte),
    let r := s.coldReset now
    r.pc = 0 ∧ (∀ a : Nat, r.byteAt a = 0) ∧ r.fetchWord = 0x0000 ∧
    ∃ t : State, stepWith now' rnd r = .next t ∧ t.halt = true ∧ t.fcause = 1 ∧ t.fval = 0x0000 ∧ t.pc = 0x0002

/-- R234: packing a byte stream into words and laying the words out high byte first gives the stream back, a last odd
byte dropped. -/
def Obligations.PackedWordsAreTheByteStream : Prop :=
  ∀ bytes : List Byte,
    (packWords bytes).length = bytes.length / 2 ∧
    wordsToBytes (packWords bytes) = bytes.take (2 * (bytes.length / 2))

/-! ### Control transfer -/

/-- R101, R193: `00EE` pops the top of the stack into `PC`, all 16 bits; on an empty stack it raises
`CallStackUnderflow(0x00EE)` with `PC`, `SP` and `S` unchanged. -/
def Obligations.ReturnPopsOrHalts : Prop :=
  EncodedAs 0xFFFF 0x00EE (fun _ => .ret) ∧
  (∀ s : State, 0 < s.sp.val → ∃ t : State, exec .ret s = .next t ∧ t.sp.val + 1 = s.sp.val ∧
    (∀ h : s.sp.val - 1 < 16, t.pc = s.stack[s.sp.val - 1]) ∧ FrameExcept [.pc, .sp] s t) ∧
  (∀ s : State, s.sp.val = 0 → ∃ t : State, exec .ret s = .next t ∧ t.halt = true ∧ t.fcause = 2 ∧
    t.fval = 0x00EE ∧ FrameExcept [.halt, .fcause, .fval] s t)

/-- R102: `1nnn` puts `nnn` in `PC`. -/
def Obligations.JumpSetsPc : Prop :=
  EncodedAs 0xF000 0x1000 (fun op => .jp (fieldNNN op)) ∧
  ∀ (nnn : Addr) (s : State), ∃ t : State, exec (.jp nnn) s = .next t ∧ t.pc.toNat = nnn.toNat ∧
    FrameExcept [.pc] s t

/-- R103, R194: `2nnn` pushes the advanced `PC` and jumps to `nnn`; with 16 entries on the stack it raises
`CallStackOverflow(2nnn)` and neither pushes nor jumps. -/
def Obligations.CallPushesOrHalts : Prop :=
  EncodedAs 0xF000 0x2000 (fun op => .call (fieldNNN op)) ∧
  (∀ (nnn : Addr) (s : State), s.sp.val < 16 → ∃ t : State, exec (.call nnn) s = .next t ∧
    t.pc.toNat = nnn.toNat ∧ t.sp.val = s.sp.val + 1 ∧
    (∀ (k : Nat) (h : k < 16), t.stack[k] = if k = s.sp.val then s.pc else s.stack[k]) ∧
    FrameExcept [.pc, .stack, .sp] s t) ∧
  (∀ (nnn : Addr) (s : State), s.sp.val = 16 → ∃ t : State, exec (.call nnn) s = .next t ∧
    t.halt = true ∧ t.fcause = 3 ∧ t.fval.toNat = 0x2000 + nnn.toNat ∧ FrameExcept [.halt, .fcause, .fval] s t)

/-- R101, R103: a return in any state whose stack is as the call left it goes to the instruction after the call and
restores the depth. -/
def Obligations.ReturnUndoesCall : Prop :=
  ∀ (nnn : Addr) (s t u : State), s.sp.val < 16 → exec (.call nnn) s = .next t → u.stack = t.stack → u.sp = t.sp →
    ∃ w : State, exec .ret u = .next w ∧ w.pc = s.pc ∧ w.sp = s.sp ∧ FrameExcept [.pc, .sp] u w

/-- R104: `Bnnn` puts `nnn + V0` in `PC`, unreduced. -/
def Obligations.JumpWithOffsetAddsV0 : Prop :=
  EncodedAs 0xF000 0xB000 (fun op => .jpv0 (fieldNNN op)) ∧
  ∀ (nnn : Addr) (s : State), ∃ t : State, exec (.jpv0 nnn) s = .next t ∧
    t.pc.toNat = nnn.toNat + (s.getV 0).toNat ∧ FrameExcept [.pc] s t

/-- R106, R107: `3xkk` and `4xkk` add 2 to `PC` once more, modulo 65536, when `V[x] = kk` and when `V[x] != kk`. -/
def Obligations.SkipsOnImmediate : Prop :=
  EncodedAs 0xF000 0x3000 (fun op => .sek (fieldX op) (fieldKK op)) ∧
  EncodedAs 0xF000 0x4000 (fun op => .snek (fieldX op) (fieldKK op)) ∧
  (∀ (x : Nibble) (kk : Byte) (s : State), ∃ t : State, exec (.sek x kk) s = .next t ∧
    t.pc.toNat = (s.pc.toNat + if (s.getV x).toNat = kk.toNat then 2 else 0) % 65536 ∧ FrameExcept [.pc] s t) ∧
  (∀ (x : Nibble) (kk : Byte) (s : State), ∃ t : State, exec (.snek x kk) s = .next t ∧
    t.pc.toNat = (s.pc.toNat + if (s.getV x).toNat = kk.toNat then 0 else 2) % 65536 ∧ FrameExcept [.pc] s t)

/-- R108, R109: `5xy0` and `9xy0` add 2 to `PC` once more, modulo 65536, when `V[x] = V[y]` and when `V[x] != V[y]`; with
a nonzero low nibble the words of both families are unsupported. -/
def Obligations.SkipsOnRegisters : Prop :=
  EncodedAs 0xF00F 0x5000 (fun op => .ser (fieldX op) (fieldY op)) ∧
  EncodedAs 0xF00F 0x9000 (fun op => .sner (fieldX op) (fieldY op)) ∧
  (∀ op : Word, op &&& 0xF000 = 0x5000 ∨ op &&& 0xF000 = 0x9000 → op &&& 0x000F ≠ 0 → decodeWord op = none) ∧
  (∀ (x y : Nibble) (s : State), ∃ t : State, exec (.ser x y) s = .next t ∧
    t.pc.toNat = (s.pc.toNat + if (s.getV x).toNat = (s.getV y).toNat then 2 else 0) % 65536 ∧
    FrameExcept [.pc] s t) ∧
  (∀ (x y : Nibble) (s : State), ∃ t : State, exec (.sner x y) s = .next t ∧
    t.pc.toNat = (s.pc.toNat + if (s.getV x).toNat = (s.getV y).toNat then 0 else 2) % 65536 ∧
    FrameExcept [.pc] s t)

/-! ### Registers -/

/-- R122, R123: `6xkk` puts `kk` in `V[x]`; `7xkk` adds `kk` to it modulo 256 and writes no flag. -/
def Obligations.ImmediateLoadAndAdd : Prop :=
  EncodedAs 0xF000 0x6000 (fun op => .ldk (fieldX op) (fieldKK op)) ∧
  EncodedAs 0xF000 0x7000 (fun op => .addk (fieldX op) (fieldKK op)) ∧
  (∀ (x : Nibble) (kk : Byte) (s : State), ∃ t : State, exec (.ldk x kk) s = .next t ∧ t.getV x = kk ∧
    RegsExcept [x] s t ∧ FrameExcept [.v] s t) ∧
  (∀ (x : Nibble) (kk : Byte) (s : State), ∃ t : State, exec (.addk x kk) s = .next t ∧
    (t.getV x).toNat = ((s.getV x).toNat + kk.toNat) % 256 ∧ RegsExcept [x] s t ∧ FrameExcept [.v] s t)

/-- R124 to R127: `8xy0` copies `V[y]`; `8xy1`, `8xy2`, `8xy3` combine bit by bit; VF is neither written nor cleared. -/
def Obligations.CopyAndLogicWriteOnlyTheDestination : Prop :=
  EncodedAs 0xF00F 0x8000 (fun op => .mov (fieldX op) (fieldY op)) ∧
  EncodedAs 0xF00F 0x8001 (fun op => .or (fieldX op) (fieldY op)) ∧
  EncodedAs 0xF00F 0x8002 (fun op => .and (fieldX op) (fieldY op)) ∧
  EncodedAs 0xF00F 0x8003 (fun op => .xor (fieldX op) (fieldY op)) ∧
  ∀ (x y : Nibble) (s : State),
    (∃ t : State, exec (.mov x y) s = .next t ∧ t.getV x = s.getV y ∧ RegsExcept [x] s t ∧ FrameExcept [.v] s t) ∧
    (∃ t : State, exec (.or x y) s = .next t ∧
      (∀ k : Nat, (t.getV x).getLsbD k = ((s.getV x).getLsbD k || (s.getV y).getLsbD k)) ∧
      RegsExcept [x] s t ∧ FrameExcept [.v] s t) ∧
    (∃ t : State, exec (.and x y) s = .next t ∧
      (∀ k : Nat, (t.getV x).getLsbD k = ((s.getV x).getLsbD k && (s.getV y).getLsbD k)) ∧
      RegsExcept [x] s t ∧ FrameExcept [.v] s t) ∧
    (∃ t : State, exec (.xor x y) s = .next t ∧
      (∀ k : Nat, (t.getV x).getLsbD k = ((s.getV x).getLsbD k ^^ (s.getV y).getLsbD k)) ∧
      RegsExcept [x] s t ∧ FrameExcept [.v] s t)

/-- R128: `8xy4` puts the sum modulo 256 in `V[x]`; VF is the carry, unless it is the destination, when the result
overwrites it. -/
def Obligations.AddSetsCarryThenResult : Prop :=
  EncodedAs 0xF00F 0x8004 (fun op => .add (fieldX op) (fieldY op)) ∧
  ∀ (x y : Nibble) (s : State), ∃ t : State, exec (.add x y) s = .next t ∧
    (t.getV x).toNat = ((s.getV x).toNat + (s.getV y).toNat) % 256 ∧
    (x ≠ 15 → (t.getV 15).toNat = if 255 < (s.getV x).toNat + (s.getV y).toNat then 1 else 0) ∧
    RegsExcept [x, 15] s t ∧ FrameExcept [.v] s t

/-- R129, R120: `8xy5` writes the flag `V[x] > V[y]` of the old values to VF, then the difference of the registers as the
flag write left them to `V[x]`, modulo 256. -/
def Obligations.SubtractIsSequential : Prop :=
  EncodedAs 0xF00F 0x8005 (fun op => .sub (fieldX op) (fieldY op)) ∧
  ∀ (x y : Nibble) (s : State), ∃ t : State, exec (.sub x y) s = .next t ∧
    (let f : Nat := if (s.getV y).toNat < (s.getV x).toNat then 1 else 0
     (x ≠ 15 → y ≠ 15 → (t.getV 15).toNat = f ∧
       (t.getV x).toNat = ((s.getV x).toNat + 256 - (s.getV y).toNat) % 256) ∧
     (x = 15 → y ≠ 15 → (t.getV 15).toNat = (f + 256 - (s.getV y).toNat) % 256) ∧
     (x ≠ 15 → y = 15 → (t.getV 15).toNat = f ∧ (t.getV x).toNat = ((s.getV x).toNat + 256 - f) % 256) ∧
     (x = 15 → y = 15 → (t.getV 15).toNat = 0)) ∧
    RegsExcept [x, 15] s t ∧ FrameExcept [.v] s t

/-- R131, R120: `8xy7` writes the flag `V[y] > V[x]` of the old values to VF, then the difference `V[y] - V[x]` of the
registers as the flag write left them to `V[x]`, modulo 256. -/
def Obligations.SubtractReversedIsSequential : Prop :=
  EncodedAs 0xF00F 0x8007 (fun op => .subn (fieldX op) (fieldY op)) ∧
  ∀ (x y : Nibble) (s : State), ∃ t : State, exec (.subn x y) s = .next t ∧
    (let f : Nat := if (s.getV x).toNat < (s.getV y).toNat then 1 else 0
     (x ≠ 15 → y ≠ 15 → (t.getV 15).toNat = f ∧
       (t.getV x).toNat = ((s.getV y).toNat + 256 - (s.getV x).toNat) % 256) ∧
     (x = 15 → y ≠ 15 → (t.getV 15).toNat = ((s.getV y).toNat + 256 - f) % 256) ∧
     (x ≠ 15 → y = 15 → (t.getV 15).toNat = f ∧ (t.getV x).toNat = (f + 256 - (s.getV x).toNat) % 256) ∧
     (x = 15 → y = 15 → (t.getV 15).toNat = 0)) ∧
    RegsExcept [x, 15] s t ∧ FrameExcept [.v] s t

/-- R130, R132: `8xy6` halves `V[x]` and `8xyE` doubles it modulo 256; no flag, and `V[y]` is not read. -/
def Obligations.ShiftsLeaveTheFlagAlone : Prop :=
  EncodedAs 0xF00F 0x8006 (fun op => .shr (fieldX op) (fieldY op)) ∧
  EncodedAs 0xF00F 0x800E (fun op => .shl (fieldX op) (fieldY op)) ∧
  (∀ (x y : Nibble) (s : State), ∃ t : State, exec (.shr x y) s = .next t ∧
    (t.getV x).toNat = (s.getV x).toNat / 2 ∧ RegsExcept [x] s t ∧ FrameExcept [.v] s t) ∧
  (∀ (x y : Nibble) (s : State), ∃ t : State, exec (.shl x y) s = .next t ∧
    (t.getV x).toNat = 2 * (s.getV x).toNat % 256 ∧ RegsExcept [x] s t ∧ FrameExcept [.v] s t)

/-- R133: `Cxkk` puts `rnd & kk` in `V[x]`, for the `rnd` the step was given and every value of it. Every other
instruction ignores `rnd`: with another input it does the same. -/
def Obligations.RandomIsTheInputMasked : Prop :=
  EncodedAs 0xF000 0xC000 (fun op => .rnd (fieldX op) (fieldKK op)) ∧
  (∀ (x : Nibble) (kk : Byte) (s : State), ∃ t : State, exec (.rnd x kk) s = .next t ∧
    t.getV x = s.rndIn &&& kk ∧ RegsExcept [x] s t ∧ FrameExcept [.v] s t) ∧
  (∀ (x : Nibble) (kk : Byte) (s : State) (now : Nat) (rnd : Byte), Running s →
    decodeWord s.fetchWord = some (.rnd x kk) →
    ∃ t : State, stepWith now rnd s = .next t ∧ t.getV x = rnd &&& kk ∧ RegsExcept [x] s t) ∧
  (∀ (i : Instr) (s t : State) (rnd : Byte), (∀ (x : Nibble) (kk : Byte), i ≠ .rnd x kk) → exec i s = .next t →
    exec i { s with rndIn := rnd } = .next { t with rndIn := rnd })

/-! ### Index register and memory -/

/-- R141, R142, R143: `Annn` loads `I`; `Fx1E` adds `V[x]` modulo 65536, no flag; `Fx29` makes it `5 * V[x]`, all 8
bits. -/
def Obligations.IndexRegisterWrites : Prop :=
  EncodedAs 0xF000 0xA000 (fun op => .ldi (fieldNNN op)) ∧
  EncodedAs 0xF0FF 0xF01E (fun op => .addi (fieldX op)) ∧
  EncodedAs 0xF0FF 0xF029 (fun op => .font (fieldX op)) ∧
  (∀ (nnn : Addr) (s : State), ∃ t : State, exec (.ldi nnn) s = .next t ∧ t.i.toNat = nnn.toNat ∧
    FrameExcept [.i] s t) ∧
  (∀ (x : Nibble) (s : State), ∃ t : State, exec (.addi x) s = .next t ∧
    t.i.toNat = (s.i.toNat + (s.getV x).toNat) % 65536 ∧ FrameExcept [.i] s t) ∧
  (∀ (x : Nibble) (s : State), ∃ t : State, exec (.font x) s = .next t ∧
    t.i.toNat = 5 * (s.getV x).toNat ∧ FrameExcept [.i] s t)

/-- R144: `Fx33` stores hundreds, tens and ones of `V[x]` at `I`, `I + 1`, `I + 2` modulo 4096 and changes nothing else,
no other byte of memory among it. -/
def Obligations.BcdStoresThreeDigits : Prop :=
  EncodedAs 0xF0FF 0xF033 (fun op => .bcd (fieldX op)) ∧
  ∀ (x : Nibble) (s : State), ∃ t : State, exec (.bcd x) s = .next t ∧
    (t.byteAt s.dataBase).toNat = (s.getV x).toNat / 100 ∧
    (t.byteAt (s.dataBase + 1)).toNat = (s.getV x).toNat / 10 % 10 ∧
    (t.byteAt (s.dataBase + 2)).toNat = (s.getV x).toNat % 10 ∧
    (∀ a : Nat, (∀ k < 3, a % 4096 ≠ (s.dataBase + k) % 4096) → t.byteAt a = s.byteAt a) ∧
    FrameExcept [.mem] s t

/-- R145: `Fx55` stores `V0..Vx` at `I..I+x` modulo 4096 and changes nothing else, no other byte of memory among it. -/
def Obligations.StoreWritesTheRegisterBlock : Prop :=
  EncodedAs 0xF0FF 0xF055 (fun op => .store (fieldX op)) ∧
  ∀ (x : Nibble) (s : State), ∃ t : State, exec (.store x) s = .next t ∧
    (∀ r : Nibble, r.toNat ≤ x.toNat → t.byteAt (s.dataBase + r.toNat) = s.getV r) ∧
    (∀ a : Nat, (∀ k ≤ x.toNat, a % 4096 ≠ (s.dataBase + k) % 4096) → t.byteAt a = s.byteAt a) ∧
    FrameExcept [.mem] s t

/-- R146: `Fx65` loads `V0..Vx` from `I..I+x` modulo 4096; the registers above keep their values, `I` and memory are
unchanged. -/
def Obligations.LoadReadsTheRegisterBlock : Prop :=
  EncodedAs 0xF0FF 0xF065 (fun op => .load (fieldX op)) ∧
  ∀ (x : Nibble) (s : State), ∃ t : State, exec (.load x) s = .next t ∧
    (∀ r : Nibble, t.getV r = if r.toNat ≤ x.toNat then s.byteAt (s.dataBase + r.toNat) else s.getV r) ∧
    FrameExcept [.v] s t

/-! ### Display -/

/-- R161: `00E0` makes every cell 0, so the host reads 2048 zeros; VF and everything else is unchanged. -/
def Obligations.ClearScreenZeroesEveryCell : Prop :=
  EncodedAs 0xFFFF 0x00E0 (fun _ => .cls) ∧
  ∀ s : State, ∃ t : State, exec .cls s = .next t ∧ (∀ j : Nat, t.disp.cell j = false) ∧
    t.readDisplay = List.replicate 2048 0 ∧ FrameExcept [.disp] s t

/-- R162: with `px = V[x]` and `py = V[y]` read first, sprite bit `c` of row `r` (bit `7 - c` of the byte at `I + r`) is
XORed into cell `64*(py + r) + (px + c)` when that is below 2048 and dropped otherwise; every other cell keeps its value;
VF is 1 exactly when a set bit met a set cell, else 0. That byte `r` is row `V[y] + r` and bit `7 - c` is column
`V[x] + c` is the layout of R160, which the spec marks as general knowledge (decision D16); the model takes it: PRESUMED,
log entry 10. -/
def Obligations.DrawXorsTheSprite : Prop :=
  EncodedAs 0xF000 0xD000 (fun op => .drw (fieldX op) (fieldY op) (fieldN op)) ∧
  ∀ (x y n : Nibble) (s : State), ∃ t : State, exec (.drw x y n) s = .next t ∧
    (let idx : Nat → Nat → Nat := fun r c => 64 * ((s.getV y).toNat + r) + ((s.getV x).toNat + c)
     let bit : Nat → Nat → Bool := fun r c => (s.byteAt (s.i.toNat + r)).getLsbD (7 - c)
     (∀ r < n.toNat, ∀ c < 8, idx r c < 2048 → t.disp.cell (idx r c) = (s.disp.cell (idx r c) ^^ bit r c)) ∧
     (∀ j < 2048, (∀ r < n.toNat, ∀ c < 8, idx r c ≠ j) → t.disp.cell j = s.disp.cell j) ∧
     ((∃ r < n.toNat, ∃ c < 8, idx r c < 2048 ∧ bit r c = true ∧ s.disp.cell (idx r c) = true) →
       t.getV 15 = 1) ∧
     ((∀ r < n.toNat, ∀ c < 8, idx r c < 2048 → bit r c = true → s.disp.cell (idx r c) = false) →
       t.getV 15 = 0)) ∧
    RegsExcept [15] s t ∧ FrameExcept [.v, .disp] s t

/-- R162: "drawing the identical sprite at the identical position twice in succession restores the pre-draw display
state", for `x` and `y` other than 0xF (95_test_vectors.md X4). The second draw is that of any state in which memory, `I`,
the display and the registers but VF are as the first left them. After it VF is 1 exactly when a set bit of the sprite
lies in the buffer on a cell that was 0 before the first draw: this is what R162's loops give, where R162's own remark on
the second VF holds for a display that was clear there (log entry 9). Which bit lies on which cell is the layout of R160
(decision D16): PRESUMED, log entry 10. -/
def Obligations.DrawTwiceRestoresTheDisplay : Prop :=
  ∀ (x y n : Nibble) (s t u : State), x ≠ 15 → y ≠ 15 → exec (.drw x y n) s = .next t →
    u.disp = t.disp → u.i = t.i → (∀ a : Nat, u.byteAt a = t.byteAt a) → RegsExcept [15] t u →
    ∃ w : State, exec (.drw x y n) u = .next w ∧ w.disp = s.disp ∧
    (w.getV 15 = 1 ↔ ∃ r < n.toNat, ∃ c < 8, 64 * ((s.getV y).toNat + r) + ((s.getV x).toNat + c) < 2048 ∧
      (s.byteAt (s.i.toNat + r)).getLsbD (7 - c) = true ∧
      s.disp.cell (64 * ((s.getV y).toNat + r) + ((s.getV x).toNat + c)) = false)

/-! ### Keyboard and timers -/

/-- R171, R172: `Ex9E` and `ExA1` add 2 to `PC` once more, modulo 65536, when the latch equals all 8 bits of `V[x]` and
when it differs. -/
def Obligations.SkipsOnKey : Prop :=
  EncodedAs 0xF0FF 0xE09E (fun op => .skp (fieldX op)) ∧
  EncodedAs 0xF0FF 0xE0A1 (fun op => .sknp (fieldX op)) ∧
  (∀ (x : Nibble) (s : State), ∃ t : State, exec (.skp x) s = .next t ∧
    t.pc.toNat = (s.pc.toNat + if s.key.toNat = (s.getV x).toNat then 2 else 0) % 65536 ∧ FrameExcept [.pc] s t) ∧
  (∀ (x : Nibble) (s : State), ∃ t : State, exec (.sknp x) s = .next t ∧
    t.pc.toNat = (s.pc.toNat + if s.key.toNat = (s.getV x).toNat then 0 else 2) % 65536 ∧ FrameExcept [.pc] s t)

/-- R173: `Fx0A` sets `WAIT` and remembers `x` in `WAITX`; it writes no register. The store comes with a later step: the
next one when a key is already latched. -/
def Obligations.WaitKeyDefersTheStore : Prop :=
  EncodedAs 0xF0FF 0xF00A (fun op => .waitk (fieldX op)) ∧
  (∀ (x : Nibble) (s : State), ∃ t : State, exec (.waitk x) s = .next t ∧ t.wait = true ∧ t.waitX = x ∧
    FrameExcept [.wait, .waitX] s t) ∧
  (∀ (x : Nibble) (s t : State) (now : Nat) (rnd : Byte), s.halt = false → exec (.waitk x) s = .next t →
    ∃ u : State, stepWith now rnd t = .next u ∧ u.pc = s.pc ∧
      (s.key = 0 → u.wait = true ∧ ∀ r : Nibble, u.getV r = s.getV r) ∧
      (s.key ≠ 0 → u.wait = false ∧ u.getV x = s.key ∧ RegsExcept [x] s u))

/-- R174, R175, R176: `Fx07` reads `DT` into `V[x]`, in a step the `DT` after its tick; `Fx15` and `Fx18` write `DT` and
`ST` and leave `LAST_TICK`; the host's sound bit becomes `V[x] != 0`. -/
def Obligations.TimerReadsAndWrites : Prop :=
  EncodedAs 0xF0FF 0xF007 (fun op => .getdt (fieldX op)) ∧
  EncodedAs 0xF0FF 0xF015 (fun op => .setdt (fieldX op)) ∧
  EncodedAs 0xF0FF 0xF018 (fun op => .setst (fieldX op)) ∧
  (∀ (x : Nibble) (s : State), ∃ t : State, exec (.getdt x) s = .next t ∧ t.getV x = s.dt ∧ RegsExcept [x] s t ∧
    FrameExcept [.v] s t) ∧
  (∀ (x : Nibble) (s : State), ∃ t : State, exec (.setdt x) s = .next t ∧ t.dt = s.getV x ∧ FrameExcept [.dt] s t) ∧
  (∀ (x : Nibble) (s : State), ∃ t : State, exec (.setst x) s = .next t ∧ t.st = s.getV x ∧
    (t.soundActive = true ↔ (s.getV x).toNat ≠ 0) ∧ FrameExcept [.st] s t) ∧
  (∀ (x : Nibble) (s : State) (now : Nat) (rnd : Byte), Running s → decodeWord s.fetchWord = some (.getdt x) →
    ∃ t : State, stepWith now rnd s = .next t ∧ t.getV x = (s.latchInputs now rnd).timerTick.dt)
end

