-- ==== Sys2Proof/Laws/Decode.lean ====
section
/-! SUPPORT. The fields of an encoded word are the fields it was encoded from (30_encoding.md R61, R62), one lemma per
format and field; a word is its fields; and what the three masks of the opcode table keep of a word (R75). -/

namespace Sys2Proof

/-! ### Bits of an encoded word -/

theorem encA_bit (f : Nibble) (nnn : Addr) (i : Nat) :
    (encA f nnn).getLsbD i = if i < 12 then nnn.getLsbD i else f.getLsbD (i - 12) := by
  simp only [encA, BitVec.getLsbD_append]

theorem encXK_bit (f x : Nibble) (kk : Byte) (i : Nat) :
    (encXK f x kk).getLsbD i =
      if i < 8 then kk.getLsbD i else if i - 8 < 4 then x.getLsbD (i - 8) else f.getLsbD (i - 8 - 4) := by
  simp only [encXK, BitVec.getLsbD_append]

theorem encXYN_bit (f x y n : Nibble) (i : Nat) :
    (encXYN f x y n).getLsbD i =
      if i < 8 then (if i < 4 then n.getLsbD i else y.getLsbD (i - 4))
      else if i - 8 < 4 then x.getLsbD (i - 8) else f.getLsbD (i - 8 - 4) := by
  simp only [encXYN, BitVec.getLsbD_append]

theorem wordOfBytes_bit (hi lo : Byte) (i : Nat) :
    (wordOfBytes hi lo).getLsbD i = if i < 8 then lo.getLsbD i else hi.getLsbD (i - 8) := by
  simp only [wordOfBytes, BitVec.getLsbD_append]

theorem field_bit (op : Word) (lo width i : Nat) (h : i < width) :
    (op.extractLsb' lo width).getLsbD i = op.getLsbD (lo + i) := by
  simp only [BitVec.getLsbD_extractLsb', h, decide_true, Bool.true_and]

/-! ### Fields -/

theorem fieldFam_encA (f : Nibble) (nnn : Addr) : fieldFam (encA f nnn) = f := by
  apply BitVec.eq_of_getLsbD_eq
  intro i hi
  rw [fieldFam, field_bit _ _ _ _ hi, encA_bit, if_neg (by omega), Nat.add_sub_cancel_left]

theorem fieldNNN_encA (f : Nibble) (nnn : Addr) : fieldNNN (encA f nnn) = nnn := by
  apply BitVec.eq_of_getLsbD_eq
  intro i hi
  rw [fieldNNN, field_bit _ _ _ _ hi, encA_bit, if_pos (by omega), Nat.zero_add]

theorem fieldFam_encXK (f x : Nibble) (kk : Byte) : fieldFam (encXK f x kk) = f := by
  apply BitVec.eq_of_getLsbD_eq
  intro i hi
  rw [fieldFam, field_bit _ _ _ _ hi, encXK_bit, if_neg (by omega), if_neg (by omega)]
  congr 1
  omega

theorem fieldX_encXK (f x : Nibble) (kk : Byte) : fieldX (encXK f x kk) = x := by
  apply BitVec.eq_of_getLsbD_eq
  intro i hi
  rw [fieldX, field_bit _ _ _ _ hi, encXK_bit, if_neg (by omega), if_pos (by omega), Nat.add_sub_cancel_left]

theorem fieldKK_encXK (f x : Nibble) (kk : Byte) : fieldKK (encXK f x kk) = kk := by
  apply BitVec.eq_of_getLsbD_eq
  intro i hi
  rw [fieldKK, field_bit _ _ _ _ hi, encXK_bit, if_pos (by omega), Nat.zero_add]

/-- The four nibbles as a word of format XK. -/
theorem encXYN_eq_encXK (f x y n : Nibble) : encXYN f x y n = encXK f x (y ++ n) := rfl

theorem fieldFam_encXYN (f x y n : Nibble) : fieldFam (encXYN f x y n) = f := fieldFam_encXK f x _

theorem fieldX_encXYN (f x y n : Nibble) : fieldX (encXYN f x y n) = x := fieldX_encXK f x _

theorem fieldY_encXYN (f x y n : Nibble) : fieldY (encXYN f x y n) = y := by
  apply BitVec.eq_of_getLsbD_eq
  intro i hi
  rw [fieldY, field_bit _ _ _ _ hi, encXYN_bit, if_pos (by omega), if_neg (by omega), Nat.add_sub_cancel_left]

theorem fieldN_encXYN (f x y n : Nibble) : fieldN (encXYN f x y n) = n := by
  apply BitVec.eq_of_getLsbD_eq
  intro i hi
  rw [fieldN, field_bit _ _ _ _ hi, encXYN_bit, if_pos (by omega), if_pos (by omega), Nat.zero_add]

/-! ### A word is its fields -/

theorem encA_fields (w : Word) : encA (fieldFam w) (fieldNNN w) = w := by
  apply BitVec.eq_of_getLsbD_eq
  intro i hi
  rw [encA_bit]
  split
  · rw [fieldNNN, field_bit _ _ _ _ (by omega), Nat.zero_add]
  · rw [fieldFam, field_bit _ _ _ _ (by omega)]
    congr 1
    omega

theorem encXK_fields (w : Word) : encXK (fieldFam w) (fieldX w) (fieldKK w) = w := by
  apply BitVec.eq_of_getLsbD_eq
  intro i hi
  rw [encXK_bit]
  split
  · rw [fieldKK, field_bit _ _ _ _ (by omega), Nat.zero_add]
  · split
    · rw [fieldX, field_bit _ _ _ _ (by omega)]
      congr 1
      omega
    · rw [fieldFam, field_bit _ _ _ _ (by omega)]
      congr 1
      omega

theorem encXYN_fields (w : Word) : encXYN (fieldFam w) (fieldX w) (fieldY w) (fieldN w) = w := by
  rw [encXYN_eq_encXK, show fieldY w ++ fieldN w = fieldKK w from ?_, encXK_fields]
  apply BitVec.eq_of_getLsbD_eq
  intro i hi
  rw [BitVec.getLsbD_append, fieldKK, field_bit _ _ _ _ hi]
  split
  · rw [fieldN, field_bit _ _ _ _ (by omega)]
  · rw [fieldY, field_bit _ _ _ _ (by omega)]
    congr 1
    omega

/-! ### The masks of R75 -/

theorem and_bit (w m : Word) (i : Nat) : (w &&& m).getLsbD i = (w.getLsbD i && m.getLsbD i) := BitVec.getLsbD_and

theorem encXK_and_F000 (f x : Nibble) (kk : Byte) : encXK f x kk &&& 0xF000 = encXK f 0 0 := by
  apply BitVec.eq_of_getLsbD_eq
  intro i hi
  rw [and_bit, encXK_bit, encXK_bit]
  interval_cases i <;> simp

theorem encXK_and_F0FF (f x : Nibble) (kk : Byte) : encXK f x kk &&& 0xF0FF = encXK f 0 kk := by
  apply BitVec.eq_of_getLsbD_eq
  intro i hi
  rw [and_bit, encXK_bit, encXK_bit]
  interval_cases i <;> simp

theorem encXYN_and_F000 (f x y n : Nibble) : encXYN f x y n &&& 0xF000 = encXYN f 0 0 0 := by
  apply BitVec.eq_of_getLsbD_eq
  intro i hi
  rw [and_bit, encXYN_bit, encXYN_bit]
  interval_cases i <;> simp

theorem encXYN_and_F00F (f x y n : Nibble) : encXYN f x y n &&& 0xF00F = encXYN f 0 0 n := by
  apply BitVec.eq_of_getLsbD_eq
  intro i hi
  rw [and_bit, encXYN_bit, encXYN_bit]
  interval_cases i <;> simp

theorem encA_and_F000 (f : Nibble) (nnn : Addr) : encA f nnn &&& 0xF000 = encA f 0 := by
  apply BitVec.eq_of_getLsbD_eq
  intro i hi
  rw [and_bit, encA_bit, encA_bit]
  interval_cases i <;> simp

/-! ### Bytes -/

theorem wordOfBytes_high_low (w : Word) : wordOfBytes (highByte w) (lowByte w) = w := by
  apply BitVec.eq_of_getLsbD_eq
  intro i hi
  rw [wordOfBytes_bit]
  split
  · rw [lowByte, field_bit _ _ _ _ (by omega), Nat.zero_add]
  · rw [highByte, field_bit _ _ _ _ (by omega)]
    congr 1
    omega

theorem highByte_wordOfBytes (hi lo : Byte) : highByte (wordOfBytes hi lo) = hi := by
  apply BitVec.eq_of_getLsbD_eq
  intro i h
  rw [highByte, field_bit _ _ _ _ h, wordOfBytes_bit, if_neg (by omega), Nat.add_sub_cancel_left]

theorem lowByte_wordOfBytes (hi lo : Byte) : lowByte (wordOfBytes hi lo) = lo := by
  apply BitVec.eq_of_getLsbD_eq
  intro i h
  rw [lowByte, field_bit _ _ _ _ h, wordOfBytes_bit, if_pos (by omega), Nat.zero_add]

/-! ### What a selected row says about the fields -/

theorem fieldFam_of_F000 {op v : Word} (h : op &&& 0xF000 = v) : fieldFam op = fieldFam v := by
  rw [← encXK_fields op, encXK_and_F000] at h
  rw [← h, fieldFam_encXK]

theorem fieldFam_fieldKK_of_F0FF {op v : Word} (h : op &&& 0xF0FF = v) :
    fieldFam op = fieldFam v ∧ fieldKK op = fieldKK v := by
  rw [← encXK_fields op, encXK_and_F0FF] at h
  rw [← h, fieldFam_encXK, fieldKK_encXK]
  exact ⟨rfl, rfl⟩

theorem fieldFam_fieldN_of_F00F {op v : Word} (h : op &&& 0xF00F = v) :
    fieldFam op = fieldFam v ∧ fieldN op = fieldN v := by
  rw [← encXYN_fields op, encXYN_and_F00F] at h
  rw [← h, fieldFam_encXYN, fieldN_encXYN]
  exact ⟨rfl, rfl⟩

end Sys2Proof
end

