-- ==== Sys2Proof/Laws/State.lean ====
section
/-! SUPPORT. For every named update of the state, what each field, each register read and each byte read gives after
it: true by rfl, tagged simp, so that no proof unfolds a record update. -/

namespace Sys2Proof.Machine

/-! ### `State.setV` -/

@[simp] theorem State.setV_mem (s : State) (x : Nibble) (b : Byte) : (s.setV x b).mem = s.mem := rfl
@[simp] theorem State.setV_v (s : State) (x : Nibble) (b : Byte) :
    (s.setV x b).v = s.v.set x.toNat b x.isLt := rfl
@[simp] theorem State.setV_i (s : State) (x : Nibble) (b : Byte) : (s.setV x b).i = s.i := rfl
@[simp] theorem State.setV_pc (s : State) (x : Nibble) (b : Byte) : (s.setV x b).pc = s.pc := rfl
@[simp] theorem State.setV_stack (s : State) (x : Nibble) (b : Byte) : (s.setV x b).stack = s.stack := rfl
@[simp] theorem State.setV_sp (s : State) (x : Nibble) (b : Byte) : (s.setV x b).sp = s.sp := rfl
@[simp] theorem State.setV_dt (s : State) (x : Nibble) (b : Byte) : (s.setV x b).dt = s.dt := rfl
@[simp] theorem State.setV_st (s : State) (x : Nibble) (b : Byte) : (s.setV x b).st = s.st := rfl
@[simp] theorem State.setV_disp (s : State) (x : Nibble) (b : Byte) : (s.setV x b).disp = s.disp := rfl
@[simp] theorem State.setV_key (s : State) (x : Nibble) (b : Byte) : (s.setV x b).key = s.key := rfl
@[simp] theorem State.setV_wait (s : State) (x : Nibble) (b : Byte) : (s.setV x b).wait = s.wait := rfl
@[simp] theorem State.setV_waitX (s : State) (x : Nibble) (b : Byte) : (s.setV x b).waitX = s.waitX := rfl
@[simp] theorem State.setV_lastTick (s : State) (x : Nibble) (b : Byte) : (s.setV x b).lastTick = s.lastTick := rfl
@[simp] theorem State.setV_halt (s : State) (x : Nibble) (b : Byte) : (s.setV x b).halt = s.halt := rfl
@[simp] theorem State.setV_fcause (s : State) (x : Nibble) (b : Byte) : (s.setV x b).fcause = s.fcause := rfl
@[simp] theorem State.setV_fval (s : State) (x : Nibble) (b : Byte) : (s.setV x b).fval = s.fval := rfl
@[simp] theorem State.setV_nowIn (s : State) (x : Nibble) (b : Byte) : (s.setV x b).nowIn = s.nowIn := rfl
@[simp] theorem State.setV_rndIn (s : State) (x : Nibble) (b : Byte) : (s.setV x b).rndIn = s.rndIn := rfl
@[simp] theorem State.setV_stepNo (s : State) (x : Nibble) (b : Byte) : (s.setV x b).stepNo = s.stepNo := rfl
@[simp] theorem State.setV_byteAt (s : State) (x : Nibble) (b : Byte) (k : Nat) : (s.setV x b).byteAt k = s.byteAt k := rfl

/-! ### `State.setFlag` -/

@[simp] theorem State.setFlag_mem (s : State) (f : Byte) : (s.setFlag f).mem = s.mem := rfl
@[simp] theorem State.setFlag_v (s : State) (f : Byte) :
    (s.setFlag f).v = s.v.set (15 : Nibble).toNat f (15 : Nibble).isLt := rfl
@[simp] theorem State.setFlag_i (s : State) (f : Byte) : (s.setFlag f).i = s.i := rfl
@[simp] theorem State.setFlag_pc (s : State) (f : Byte) : (s.setFlag f).pc = s.pc := rfl
@[simp] theorem State.setFlag_stack (s : State) (f : Byte) : (s.setFlag f).stack = s.stack := rfl
@[simp] theorem State.setFlag_sp (s : State) (f : Byte) : (s.setFlag f).sp = s.sp := rfl
@[simp] theorem State.setFlag_dt (s : State) (f : Byte) : (s.setFlag f).dt = s.dt := rfl
@[simp] theorem State.setFlag_st (s : State) (f : Byte) : (s.setFlag f).st = s.st := rfl
@[simp] theorem State.setFlag_disp (s : State) (f : Byte) : (s.setFlag f).disp = s.disp := rfl
@[simp] theorem State.setFlag_key (s : State) (f : Byte) : (s.setFlag f).key = s.key := rfl
@[simp] theorem State.setFlag_wait (s : State) (f : Byte) : (s.setFlag f).wait = s.wait := rfl
@[simp] theorem State.setFlag_waitX (s : State) (f : Byte) : (s.setFlag f).waitX = s.waitX := rfl
@[simp] theorem State.setFlag_lastTick (s : State) (f : Byte) : (s.setFlag f).lastTick = s.lastTick := rfl
@[simp] theorem State.setFlag_halt (s : State) (f : Byte) : (s.setFlag f).halt = s.halt := rfl
@[simp] theorem State.setFlag_fcause (s : State) (f : Byte) : (s.setFlag f).fcause = s.fcause := rfl
@[simp] theorem State.setFlag_fval (s : State) (f : Byte) : (s.setFlag f).fval = s.fval := rfl
@[simp] theorem State.setFlag_nowIn (s : State) (f : Byte) : (s.setFlag f).nowIn = s.nowIn := rfl
@[simp] theorem State.setFlag_rndIn (s : State) (f : Byte) : (s.setFlag f).rndIn = s.rndIn := rfl
@[simp] theorem State.setFlag_stepNo (s : State) (f : Byte) : (s.setFlag f).stepNo = s.stepNo := rfl
@[simp] theorem State.setFlag_byteAt (s : State) (f : Byte) (k : Nat) : (s.setFlag f).byteAt k = s.byteAt k := rfl

/-! ### `State.memWrite` -/

@[simp] theorem State.memWrite_mem (s : State) (addr : Nat) (bytes : List Byte) :
    (s.memWrite addr bytes).mem = s.mem.writeBytes addr bytes := rfl
@[simp] theorem State.memWrite_v (s : State) (addr : Nat) (bytes : List Byte) : (s.memWrite addr bytes).v = s.v := rfl
@[simp] theorem State.memWrite_i (s : State) (addr : Nat) (bytes : List Byte) : (s.memWrite addr bytes).i = s.i := rfl
@[simp] theorem State.memWrite_pc (s : State) (addr : Nat) (bytes : List Byte) :
    (s.memWrite addr bytes).pc = s.pc := rfl
@[simp] theorem State.memWrite_stack (s : State) (addr : Nat) (bytes : List Byte) :
    (s.memWrite addr bytes).stack = s.stack := rfl
@[simp] theorem State.memWrite_sp (s : State) (addr : Nat) (bytes : List Byte) :
    (s.memWrite addr bytes).sp = s.sp := rfl
@[simp] theorem State.memWrite_dt (s : State) (addr : Nat) (bytes : List Byte) :
    (s.memWrite addr bytes).dt = s.dt := rfl
@[simp] theorem State.memWrite_st (s : State) (addr : Nat) (bytes : List Byte) :
    (s.memWrite addr bytes).st = s.st := rfl
@[simp] theorem State.memWrite_disp (s : State) (addr : Nat) (bytes : List Byte) :
    (s.memWrite addr bytes).disp = s.disp := rfl
@[simp] theorem State.memWrite_key (s : State) (addr : Nat) (bytes : List Byte) :
    (s.memWrite addr bytes).key = s.key := rfl
@[simp] theorem State.memWrite_wait (s : State) (addr : Nat) (bytes : List Byte) :
    (s.memWrite addr bytes).wait = s.wait := rfl
@[simp] theorem State.memWrite_waitX (s : State) (addr : Nat) (bytes : List Byte) :
    (s.memWrite addr bytes).waitX = s.waitX := rfl
@[simp] theorem State.memWrite_lastTick (s : State) (addr : Nat) (bytes : List Byte) :
    (s.memWrite addr bytes).lastTick = s.lastTick := rfl
@[simp] theorem State.memWrite_halt (s : State) (addr : Nat) (bytes : List Byte) :
    (s.memWrite addr bytes).halt = s.halt := rfl
@[simp] theorem State.memWrite_fcause (s : State) (addr : Nat) (bytes : List Byte) :
    (s.memWrite addr bytes).fcause = s.fcause := rfl
@[simp] theorem State.memWrite_fval (s : State) (addr : Nat) (bytes : List Byte) :
    (s.memWrite addr bytes).fval = s.fval := rfl
@[simp] theorem State.memWrite_nowIn (s : State) (addr : Nat) (bytes : List Byte) :
    (s.memWrite addr bytes).nowIn = s.nowIn := rfl
@[simp] theorem State.memWrite_rndIn (s : State) (addr : Nat) (bytes : List Byte) :
    (s.memWrite addr bytes).rndIn = s.rndIn := rfl
@[simp] theorem State.memWrite_stepNo (s : State) (addr : Nat) (bytes : List Byte) :
    (s.memWrite addr bytes).stepNo = s.stepNo := rfl
@[simp] theorem State.memWrite_getV (s : State) (addr : Nat) (bytes : List Byte) (r : Nibble) : (s.memWrite addr bytes).getV r = s.getV r := rfl

/-! ### `State.setI` -/

@[simp] theorem State.setI_mem (s : State) (w : Word) : (s.setI w).mem = s.mem := rfl
@[simp] theorem State.setI_v (s : State) (w : Word) : (s.setI w).v = s.v := rfl
@[simp] theorem State.setI_i (s : State) (w : Word) : (s.setI w).i = w := rfl
@[simp] theorem State.setI_pc (s : State) (w : Word) : (s.setI w).pc = s.pc := rfl
@[simp] theorem State.setI_stack (s : State) (w : Word) : (s.setI w).stack = s.stack := rfl
@[simp] theorem State.setI_sp (s : State) (w : Word) : (s.setI w).sp = s.sp := rfl
@[simp] theorem State.setI_dt (s : State) (w : Word) : (s.setI w).dt = s.dt := rfl
@[simp] theorem State.setI_st (s : State) (w : Word) : (s.setI w).st = s.st := rfl
@[simp] theorem State.setI_disp (s : State) (w : Word) : (s.setI w).disp = s.disp := rfl
@[simp] theorem State.setI_key (s : State) (w : Word) : (s.setI w).key = s.key := rfl
@[simp] theorem State.setI_wait (s : State) (w : Word) : (s.setI w).wait = s.wait := rfl
@[simp] theorem State.setI_waitX (s : State) (w : Word) : (s.setI w).waitX = s.waitX := rfl
@[simp] theorem State.setI_lastTick (s : State) (w : Word) : (s.setI w).lastTick = s.lastTick := rfl
@[simp] theorem State.setI_halt (s : State) (w : Word) : (s.setI w).halt = s.halt := rfl
@[simp] theorem State.setI_fcause (s : State) (w : Word) : (s.setI w).fcause = s.fcause := rfl
@[simp] theorem State.setI_fval (s : State) (w : Word) : (s.setI w).fval = s.fval := rfl
@[simp] theorem State.setI_nowIn (s : State) (w : Word) : (s.setI w).nowIn = s.nowIn := rfl
@[simp] theorem State.setI_rndIn (s : State) (w : Word) : (s.setI w).rndIn = s.rndIn := rfl
@[simp] theorem State.setI_stepNo (s : State) (w : Word) : (s.setI w).stepNo = s.stepNo := rfl
@[simp] theorem State.setI_getV (s : State) (w : Word) (r : Nibble) : (s.setI w).getV r = s.getV r := rfl
@[simp] theorem State.setI_byteAt (s : State) (w : Word) (k : Nat) : (s.setI w).byteAt k = s.byteAt k := rfl

/-! ### `State.setPc` -/

@[simp] theorem State.setPc_mem (s : State) (w : Word) : (s.setPc w).mem = s.mem := rfl
@[simp] theorem State.setPc_v (s : State) (w : Word) : (s.setPc w).v = s.v := rfl
@[simp] theorem State.setPc_i (s : State) (w : Word) : (s.setPc w).i = s.i := rfl
@[simp] theorem State.setPc_pc (s : State) (w : Word) : (s.setPc w).pc = w := rfl
@[simp] theorem State.setPc_stack (s : State) (w : Word) : (s.setPc w).stack = s.stack := rfl
@[simp] theorem State.setPc_sp (s : State) (w : Word) : (s.setPc w).sp = s.sp := rfl
@[simp] theorem State.setPc_dt (s : State) (w : Word) : (s.setPc w).dt = s.dt := rfl
@[simp] theorem State.setPc_st (s : State) (w : Word) : (s.setPc w).st = s.st := rfl
@[simp] theorem State.setPc_disp (s : State) (w : Word) : (s.setPc w).disp = s.disp := rfl
@[simp] theorem State.setPc_key (s : State) (w : Word) : (s.setPc w).key = s.key := rfl
@[simp] theorem State.setPc_wait (s : State) (w : Word) : (s.setPc w).wait = s.wait := rfl
@[simp] theorem State.setPc_waitX (s : State) (w : Word) : (s.setPc w).waitX = s.waitX := rfl
@[simp] theorem State.setPc_lastTick (s : State) (w : Word) : (s.setPc w).lastTick = s.lastTick := rfl
@[simp] theorem State.setPc_halt (s : State) (w : Word) : (s.setPc w).halt = s.halt := rfl
@[simp] theorem State.setPc_fcause (s : State) (w : Word) : (s.setPc w).fcause = s.fcause := rfl
@[simp] theorem State.setPc_fval (s : State) (w : Word) : (s.setPc w).fval = s.fval := rfl
@[simp] theorem State.setPc_nowIn (s : State) (w : Word) : (s.setPc w).nowIn = s.nowIn := rfl
@[simp] theorem State.setPc_rndIn (s : State) (w : Word) : (s.setPc w).rndIn = s.rndIn := rfl
@[simp] theorem State.setPc_stepNo (s : State) (w : Word) : (s.setPc w).stepNo = s.stepNo := rfl
@[simp] theorem State.setPc_getV (s : State) (w : Word) (r : Nibble) : (s.setPc w).getV r = s.getV r := rfl
@[simp] theorem State.setPc_byteAt (s : State) (w : Word) (k : Nat) : (s.setPc w).byteAt k = s.byteAt k := rfl

/-! ### `State.advancePc` -/

@[simp] theorem State.advancePc_mem (s : State) : (s.advancePc).mem = s.mem := rfl
@[simp] theorem State.advancePc_v (s : State) : (s.advancePc).v = s.v := rfl
@[simp] theorem State.advancePc_i (s : State) : (s.advancePc).i = s.i := rfl
@[simp] theorem State.advancePc_pc (s : State) : (s.advancePc).pc = s.pc + 2 := rfl
@[simp] theorem State.advancePc_stack (s : State) : (s.advancePc).stack = s.stack := rfl
@[simp] theorem State.advancePc_sp (s : State) : (s.advancePc).sp = s.sp := rfl
@[simp] theorem State.advancePc_dt (s : State) : (s.advancePc).dt = s.dt := rfl
@[simp] theorem State.advancePc_st (s : State) : (s.advancePc).st = s.st := rfl
@[simp] theorem State.advancePc_disp (s : State) : (s.advancePc).disp = s.disp := rfl
@[simp] theorem State.advancePc_key (s : State) : (s.advancePc).key = s.key := rfl
@[simp] theorem State.advancePc_wait (s : State) : (s.advancePc).wait = s.wait := rfl
@[simp] theorem State.advancePc_waitX (s : State) : (s.advancePc).waitX = s.waitX := rfl
@[simp] theorem State.advancePc_lastTick (s : State) : (s.advancePc).lastTick = s.lastTick := rfl
@[simp] theorem State.advancePc_halt (s : State) : (s.advancePc).halt = s.halt := rfl
@[simp] theorem State.advancePc_fcause (s : State) : (s.advancePc).fcause = s.fcause := rfl
@[simp] theorem State.advancePc_fval (s : State) : (s.advancePc).fval = s.fval := rfl
@[simp] theorem State.advancePc_nowIn (s : State) : (s.advancePc).nowIn = s.nowIn := rfl
@[simp] theorem State.advancePc_rndIn (s : State) : (s.advancePc).rndIn = s.rndIn := rfl
@[simp] theorem State.advancePc_stepNo (s : State) : (s.advancePc).stepNo = s.stepNo := rfl
@[simp] theorem State.advancePc_getV (s : State) (r : Nibble) : (s.advancePc).getV r = s.getV r := rfl
@[simp] theorem State.advancePc_byteAt (s : State) (k : Nat) : (s.advancePc).byteAt k = s.byteAt k := rfl

/-! ### `State.skipIf` -/

@[simp] theorem State.skipIf_mem (s : State) (cond : Bool) : (s.skipIf cond).mem = s.mem := rfl
@[simp] theorem State.skipIf_v (s : State) (cond : Bool) : (s.skipIf cond).v = s.v := rfl
@[simp] theorem State.skipIf_i (s : State) (cond : Bool) : (s.skipIf cond).i = s.i := rfl
@[simp] theorem State.skipIf_pc (s : State) (cond : Bool) :
    (s.skipIf cond).pc = if cond then s.pc + 2 else s.pc := rfl
@[simp] theorem State.skipIf_stack (s : State) (cond : Bool) : (s.skipIf cond).stack = s.stack := rfl
@[simp] theorem State.skipIf_sp (s : State) (cond : Bool) : (s.skipIf cond).sp = s.sp := rfl
@[simp] theorem State.skipIf_dt (s : State) (cond : Bool) : (s.skipIf cond).dt = s.dt := rfl
@[simp] theorem State.skipIf_st (s : State) (cond : Bool) : (s.skipIf cond).st = s.st := rfl
@[simp] theorem State.skipIf_disp (s : State) (cond : Bool) : (s.skipIf cond).disp = s.disp := rfl
@[simp] theorem State.skipIf_key (s : State) (cond : Bool) : (s.skipIf cond).key = s.key := rfl
@[simp] theorem State.skipIf_wait (s : State) (cond : Bool) : (s.skipIf cond).wait = s.wait := rfl
@[simp] theorem State.skipIf_waitX (s : State) (cond : Bool) : (s.skipIf cond).waitX = s.waitX := rfl
@[simp] theorem State.skipIf_lastTick (s : State) (cond : Bool) : (s.skipIf cond).lastTick = s.lastTick := rfl
@[simp] theorem State.skipIf_halt (s : State) (cond : Bool) : (s.skipIf cond).halt = s.halt := rfl
@[simp] theorem State.skipIf_fcause (s : State) (cond : Bool) : (s.skipIf cond).fcause = s.fcause := rfl
@[simp] theorem State.skipIf_fval (s : State) (cond : Bool) : (s.skipIf cond).fval = s.fval := rfl
@[simp] theorem State.skipIf_nowIn (s : State) (cond : Bool) : (s.skipIf cond).nowIn = s.nowIn := rfl
@[simp] theorem State.skipIf_rndIn (s : State) (cond : Bool) : (s.skipIf cond).rndIn = s.rndIn := rfl
@[simp] theorem State.skipIf_stepNo (s : State) (cond : Bool) : (s.skipIf cond).stepNo = s.stepNo := rfl
@[simp] theorem State.skipIf_getV (s : State) (cond : Bool) (r : Nibble) : (s.skipIf cond).getV r = s.getV r := rfl
@[simp] theorem State.skipIf_byteAt (s : State) (cond : Bool) (k : Nat) : (s.skipIf cond).byteAt k = s.byteAt k := rfl

/-! ### `State.setDt` -/

@[simp] theorem State.setDt_mem (s : State) (b : Byte) : (s.setDt b).mem = s.mem := rfl
@[simp] theorem State.setDt_v (s : State) (b : Byte) : (s.setDt b).v = s.v := rfl
@[simp] theorem State.setDt_i (s : State) (b : Byte) : (s.setDt b).i = s.i := rfl
@[simp] theorem State.setDt_pc (s : State) (b : Byte) : (s.setDt b).pc = s.pc := rfl
@[simp] theorem State.setDt_stack (s : State) (b : Byte) : (s.setDt b).stack = s.stack := rfl
@[simp] theorem State.setDt_sp (s : State) (b : Byte) : (s.setDt b).sp = s.sp := rfl
@[simp] theorem State.setDt_dt (s : State) (b : Byte) : (s.setDt b).dt = b := rfl
@[simp] theorem State.setDt_st (s : State) (b : Byte) : (s.setDt b).st = s.st := rfl
@[simp] theorem State.setDt_disp (s : State) (b : Byte) : (s.setDt b).disp = s.disp := rfl
@[simp] theorem State.setDt_key (s : State) (b : Byte) : (s.setDt b).key = s.key := rfl
@[simp] theorem State.setDt_wait (s : State) (b : Byte) : (s.setDt b).wait = s.wait := rfl
@[simp] theorem State.setDt_waitX (s : State) (b : Byte) : (s.setDt b).waitX = s.waitX := rfl
@[simp] theorem State.setDt_lastTick (s : State) (b : Byte) : (s.setDt b).lastTick = s.lastTick := rfl
@[simp] theorem State.setDt_halt (s : State) (b : Byte) : (s.setDt b).halt = s.halt := rfl
@[simp] theorem State.setDt_fcause (s : State) (b : Byte) : (s.setDt b).fcause = s.fcause := rfl
@[simp] theorem State.setDt_fval (s : State) (b : Byte) : (s.setDt b).fval = s.fval := rfl
@[simp] theorem State.setDt_nowIn (s : State) (b : Byte) : (s.setDt b).nowIn = s.nowIn := rfl
@[simp] theorem State.setDt_rndIn (s : State) (b : Byte) : (s.setDt b).rndIn = s.rndIn := rfl
@[simp] theorem State.setDt_stepNo (s : State) (b : Byte) : (s.setDt b).stepNo = s.stepNo := rfl
@[simp] theorem State.setDt_getV (s : State) (b : Byte) (r : Nibble) : (s.setDt b).getV r = s.getV r := rfl
@[simp] theorem State.setDt_byteAt (s : State) (b : Byte) (k : Nat) : (s.setDt b).byteAt k = s.byteAt k := rfl

/-! ### `State.setSt` -/

@[simp] theorem State.setSt_mem (s : State) (b : Byte) : (s.setSt b).mem = s.mem := rfl
@[simp] theorem State.setSt_v (s : State) (b : Byte) : (s.setSt b).v = s.v := rfl
@[simp] theorem State.setSt_i (s : State) (b : Byte) : (s.setSt b).i = s.i := rfl
@[simp] theorem State.setSt_pc (s : State) (b : Byte) : (s.setSt b).pc = s.pc := rfl
@[simp] theorem State.setSt_stack (s : State) (b : Byte) : (s.setSt b).stack = s.stack := rfl
@[simp] theorem State.setSt_sp (s : State) (b : Byte) : (s.setSt b).sp = s.sp := rfl
@[simp] theorem State.setSt_dt (s : State) (b : Byte) : (s.setSt b).dt = s.dt := rfl
@[simp] theorem State.setSt_st (s : State) (b : Byte) : (s.setSt b).st = b := rfl
@[simp] theorem State.setSt_disp (s : State) (b : Byte) : (s.setSt b).disp = s.disp := rfl
@[simp] theorem State.setSt_key (s : State) (b : Byte) : (s.setSt b).key = s.key := rfl
@[simp] theorem State.setSt_wait (s : State) (b : Byte) : (s.setSt b).wait = s.wait := rfl
@[simp] theorem State.setSt_waitX (s : State) (b : Byte) : (s.setSt b).waitX = s.waitX := rfl
@[simp] theorem State.setSt_lastTick (s : State) (b : Byte) : (s.setSt b).lastTick = s.lastTick := rfl
@[simp] theorem State.setSt_halt (s : State) (b : Byte) : (s.setSt b).halt = s.halt := rfl
@[simp] theorem State.setSt_fcause (s : State) (b : Byte) : (s.setSt b).fcause = s.fcause := rfl
@[simp] theorem State.setSt_fval (s : State) (b : Byte) : (s.setSt b).fval = s.fval := rfl
@[simp] theorem State.setSt_nowIn (s : State) (b : Byte) : (s.setSt b).nowIn = s.nowIn := rfl
@[simp] theorem State.setSt_rndIn (s : State) (b : Byte) : (s.setSt b).rndIn = s.rndIn := rfl
@[simp] theorem State.setSt_stepNo (s : State) (b : Byte) : (s.setSt b).stepNo = s.stepNo := rfl
@[simp] theorem State.setSt_getV (s : State) (b : Byte) (r : Nibble) : (s.setSt b).getV r = s.getV r := rfl
@[simp] theorem State.setSt_byteAt (s : State) (b : Byte) (k : Nat) : (s.setSt b).byteAt k = s.byteAt k := rfl

/-! ### `State.setDisp` -/

@[simp] theorem State.setDisp_mem (s : State) (d : Display) : (s.setDisp d).mem = s.mem := rfl
@[simp] theorem State.setDisp_v (s : State) (d : Display) : (s.setDisp d).v = s.v := rfl
@[simp] theorem State.setDisp_i (s : State) (d : Display) : (s.setDisp d).i = s.i := rfl
@[simp] theorem State.setDisp_pc (s : State) (d : Display) : (s.setDisp d).pc = s.pc := rfl
@[simp] theorem State.setDisp_stack (s : State) (d : Display) : (s.setDisp d).stack = s.stack := rfl
@[simp] theorem State.setDisp_sp (s : State) (d : Display) : (s.setDisp d).sp = s.sp := rfl
@[simp] theorem State.setDisp_dt (s : State) (d : Display) : (s.setDisp d).dt = s.dt := rfl
@[simp] theorem State.setDisp_st (s : State) (d : Display) : (s.setDisp d).st = s.st := rfl
@[simp] theorem State.setDisp_disp (s : State) (d : Display) : (s.setDisp d).disp = d := rfl
@[simp] theorem State.setDisp_key (s : State) (d : Display) : (s.setDisp d).key = s.key := rfl
@[simp] theorem State.setDisp_wait (s : State) (d : Display) : (s.setDisp d).wait = s.wait := rfl
@[simp] theorem State.setDisp_waitX (s : State) (d : Display) : (s.setDisp d).waitX = s.waitX := rfl
@[simp] theorem State.setDisp_lastTick (s : State) (d : Display) : (s.setDisp d).lastTick = s.lastTick := rfl
@[simp] theorem State.setDisp_halt (s : State) (d : Display) : (s.setDisp d).halt = s.halt := rfl
@[simp] theorem State.setDisp_fcause (s : State) (d : Display) : (s.setDisp d).fcause = s.fcause := rfl
@[simp] theorem State.setDisp_fval (s : State) (d : Display) : (s.setDisp d).fval = s.fval := rfl
@[simp] theorem State.setDisp_nowIn (s : State) (d : Display) : (s.setDisp d).nowIn = s.nowIn := rfl
@[simp] theorem State.setDisp_rndIn (s : State) (d : Display) : (s.setDisp d).rndIn = s.rndIn := rfl
@[simp] theorem State.setDisp_stepNo (s : State) (d : Display) : (s.setDisp d).stepNo = s.stepNo := rfl
@[simp] theorem State.setDisp_getV (s : State) (d : Display) (r : Nibble) : (s.setDisp d).getV r = s.getV r := rfl
@[simp] theorem State.setDisp_byteAt (s : State) (d : Display) (k : Nat) : (s.setDisp d).byteAt k = s.byteAt k := rfl

/-! ### `State.setWait` -/

@[simp] theorem State.setWait_mem (s : State) (b : Bool) : (s.setWait b).mem = s.mem := rfl
@[simp] theorem State.setWait_v (s : State) (b : Bool) : (s.setWait b).v = s.v := rfl
@[simp] theorem State.setWait_i (s : State) (b : Bool) : (s.setWait b).i = s.i := rfl
@[simp] theorem State.setWait_pc (s : State) (b : Bool) : (s.setWait b).pc = s.pc := rfl
@[simp] theorem State.setWait_stack (s : State) (b : Bool) : (s.setWait b).stack = s.stack := rfl
@[simp] theorem State.setWait_sp (s : State) (b : Bool) : (s.setWait b).sp = s.sp := rfl
@[simp] theorem State.setWait_dt (s : State) (b : Bool) : (s.setWait b).dt = s.dt := rfl
@[simp] theorem State.setWait_st (s : State) (b : Bool) : (s.setWait b).st = s.st := rfl
@[simp] theorem State.setWait_disp (s : State) (b : Bool) : (s.setWait b).disp = s.disp := rfl
@[simp] theorem State.setWait_key (s : State) (b : Bool) : (s.setWait b).key = s.key := rfl
@[simp] theorem State.setWait_wait (s : State) (b : Bool) : (s.setWait b).wait = b := rfl
@[simp] theorem State.setWait_waitX (s : State) (b : Bool) : (s.setWait b).waitX = s.waitX := rfl
@[simp] theorem State.setWait_lastTick (s : State) (b : Bool) : (s.setWait b).lastTick = s.lastTick := rfl
@[simp] theorem State.setWait_halt (s : State) (b : Bool) : (s.setWait b).halt = s.halt := rfl
@[simp] theorem State.setWait_fcause (s : State) (b : Bool) : (s.setWait b).fcause = s.fcause := rfl
@[simp] theorem State.setWait_fval (s : State) (b : Bool) : (s.setWait b).fval = s.fval := rfl
@[simp] theorem State.setWait_nowIn (s : State) (b : Bool) : (s.setWait b).nowIn = s.nowIn := rfl
@[simp] theorem State.setWait_rndIn (s : State) (b : Bool) : (s.setWait b).rndIn = s.rndIn := rfl
@[simp] theorem State.setWait_stepNo (s : State) (b : Bool) : (s.setWait b).stepNo = s.stepNo := rfl
@[simp] theorem State.setWait_getV (s : State) (b : Bool) (r : Nibble) : (s.setWait b).getV r = s.getV r := rfl
@[simp] theorem State.setWait_byteAt (s : State) (b : Bool) (k : Nat) : (s.setWait b).byteAt k = s.byteAt k := rfl

/-! ### `State.setWaitX` -/

@[simp] theorem State.setWaitX_mem (s : State) (x : Nibble) : (s.setWaitX x).mem = s.mem := rfl
@[simp] theorem State.setWaitX_v (s : State) (x : Nibble) : (s.setWaitX x).v = s.v := rfl
@[simp] theorem State.setWaitX_i (s : State) (x : Nibble) : (s.setWaitX x).i = s.i := rfl
@[simp] theorem State.setWaitX_pc (s : State) (x : Nibble) : (s.setWaitX x).pc = s.pc := rfl
@[simp] theorem State.setWaitX_stack (s : State) (x : Nibble) : (s.setWaitX x).stack = s.stack := rfl
@[simp] theorem State.setWaitX_sp (s : State) (x : Nibble) : (s.setWaitX x).sp = s.sp := rfl
@[simp] theorem State.setWaitX_dt (s : State) (x : Nibble) : (s.setWaitX x).dt = s.dt := rfl
@[simp] theorem State.setWaitX_st (s : State) (x : Nibble) : (s.setWaitX x).st = s.st := rfl
@[simp] theorem State.setWaitX_disp (s : State) (x : Nibble) : (s.setWaitX x).disp = s.disp := rfl
@[simp] theorem State.setWaitX_key (s : State) (x : Nibble) : (s.setWaitX x).key = s.key := rfl
@[simp] theorem State.setWaitX_wait (s : State) (x : Nibble) : (s.setWaitX x).wait = s.wait := rfl
@[simp] theorem State.setWaitX_waitX (s : State) (x : Nibble) : (s.setWaitX x).waitX = x := rfl
@[simp] theorem State.setWaitX_lastTick (s : State) (x : Nibble) : (s.setWaitX x).lastTick = s.lastTick := rfl
@[simp] theorem State.setWaitX_halt (s : State) (x : Nibble) : (s.setWaitX x).halt = s.halt := rfl
@[simp] theorem State.setWaitX_fcause (s : State) (x : Nibble) : (s.setWaitX x).fcause = s.fcause := rfl
@[simp] theorem State.setWaitX_fval (s : State) (x : Nibble) : (s.setWaitX x).fval = s.fval := rfl
@[simp] theorem State.setWaitX_nowIn (s : State) (x : Nibble) : (s.setWaitX x).nowIn = s.nowIn := rfl
@[simp] theorem State.setWaitX_rndIn (s : State) (x : Nibble) : (s.setWaitX x).rndIn = s.rndIn := rfl
@[simp] theorem State.setWaitX_stepNo (s : State) (x : Nibble) : (s.setWaitX x).stepNo = s.stepNo := rfl
@[simp] theorem State.setWaitX_getV (s : State) (x : Nibble) (r : Nibble) : (s.setWaitX x).getV r = s.getV r := rfl
@[simp] theorem State.setWaitX_byteAt (s : State) (x : Nibble) (k : Nat) : (s.setWaitX x).byteAt k = s.byteAt k := rfl

/-! ### `State.setKey` -/

@[simp] theorem State.setKey_mem (s : State) (b : Byte) : (s.setKey b).mem = s.mem := rfl
@[simp] theorem State.setKey_v (s : State) (b : Byte) : (s.setKey b).v = s.v := rfl
@[simp] theorem State.setKey_i (s : State) (b : Byte) : (s.setKey b).i = s.i := rfl
@[simp] theorem State.setKey_pc (s : State) (b : Byte) : (s.setKey b).pc = s.pc := rfl
@[simp] theorem State.setKey_stack (s : State) (b : Byte) : (s.setKey b).stack = s.stack := rfl
@[simp] theorem State.setKey_sp (s : State) (b : Byte) : (s.setKey b).sp = s.sp := rfl
@[simp] theorem State.setKey_dt (s : State) (b : Byte) : (s.setKey b).dt = s.dt := rfl
@[simp] theorem State.setKey_st (s : State) (b : Byte) : (s.setKey b).st = s.st := rfl
@[simp] theorem State.setKey_disp (s : State) (b : Byte) : (s.setKey b).disp = s.disp := rfl
@[simp] theorem State.setKey_key (s : State) (b : Byte) : (s.setKey b).key = b := rfl
@[simp] theorem State.setKey_wait (s : State) (b : Byte) : (s.setKey b).wait = s.wait := rfl
@[simp] theorem State.setKey_waitX (s : State) (b : Byte) : (s.setKey b).waitX = s.waitX := rfl
@[simp] theorem State.setKey_lastTick (s : State) (b : Byte) : (s.setKey b).lastTick = s.lastTick := rfl
@[simp] theorem State.setKey_halt (s : State) (b : Byte) : (s.setKey b).halt = s.halt := rfl
@[simp] theorem State.setKey_fcause (s : State) (b : Byte) : (s.setKey b).fcause = s.fcause := rfl
@[simp] theorem State.setKey_fval (s : State) (b : Byte) : (s.setKey b).fval = s.fval := rfl
@[simp] theorem State.setKey_nowIn (s : State) (b : Byte) : (s.setKey b).nowIn = s.nowIn := rfl
@[simp] theorem State.setKey_rndIn (s : State) (b : Byte) : (s.setKey b).rndIn = s.rndIn := rfl
@[simp] theorem State.setKey_stepNo (s : State) (b : Byte) : (s.setKey b).stepNo = s.stepNo := rfl
@[simp] theorem State.setKey_getV (s : State) (b : Byte) (r : Nibble) : (s.setKey b).getV r = s.getV r := rfl
@[simp] theorem State.setKey_byteAt (s : State) (b : Byte) (k : Nat) : (s.setKey b).byteAt k = s.byteAt k := rfl

/-! ### `State.raise` -/

@[simp] theorem State.raise_mem (s : State) (c : Condition) (op : Word) : (s.raise c op).mem = s.mem := rfl
@[simp] theorem State.raise_v (s : State) (c : Condition) (op : Word) : (s.raise c op).v = s.v := rfl
@[simp] theorem State.raise_i (s : State) (c : Condition) (op : Word) : (s.raise c op).i = s.i := rfl
@[simp] theorem State.raise_pc (s : State) (c : Condition) (op : Word) : (s.raise c op).pc = s.pc := rfl
@[simp] theorem State.raise_stack (s : State) (c : Condition) (op : Word) : (s.raise c op).stack = s.stack := rfl
@[simp] theorem State.raise_sp (s : State) (c : Condition) (op : Word) : (s.raise c op).sp = s.sp := rfl
@[simp] theorem State.raise_dt (s : State) (c : Condition) (op : Word) : (s.raise c op).dt = s.dt := rfl
@[simp] theorem State.raise_st (s : State) (c : Condition) (op : Word) : (s.raise c op).st = s.st := rfl
@[simp] theorem State.raise_disp (s : State) (c : Condition) (op : Word) : (s.raise c op).disp = s.disp := rfl
@[simp] theorem State.raise_key (s : State) (c : Condition) (op : Word) : (s.raise c op).key = s.key := rfl
@[simp] theorem State.raise_wait (s : State) (c : Condition) (op : Word) : (s.raise c op).wait = s.wait := rfl
@[simp] theorem State.raise_waitX (s : State) (c : Condition) (op : Word) : (s.raise c op).waitX = s.waitX := rfl
@[simp] theorem State.raise_lastTick (s : State) (c : Condition) (op : Word) :
    (s.raise c op).lastTick = s.lastTick := rfl
@[simp] theorem State.raise_halt (s : State) (c : Condition) (op : Word) : (s.raise c op).halt = true := rfl
@[simp] theorem State.raise_fcause (s : State) (c : Condition) (op : Word) : (s.raise c op).fcause = c.code := rfl
@[simp] theorem State.raise_fval (s : State) (c : Condition) (op : Word) : (s.raise c op).fval = op := rfl
@[simp] theorem State.raise_nowIn (s : State) (c : Condition) (op : Word) : (s.raise c op).nowIn = s.nowIn := rfl
@[simp] theorem State.raise_rndIn (s : State) (c : Condition) (op : Word) : (s.raise c op).rndIn = s.rndIn := rfl
@[simp] theorem State.raise_stepNo (s : State) (c : Condition) (op : Word) : (s.raise c op).stepNo = s.stepNo := rfl
@[simp] theorem State.raise_getV (s : State) (c : Condition) (op : Word) (r : Nibble) : (s.raise c op).getV r = s.getV r := rfl
@[simp] theorem State.raise_byteAt (s : State) (c : Condition) (op : Word) (k : Nat) : (s.raise c op).byteAt k = s.byteAt k := rfl

/-! ### `State.latchInputs` -/

@[simp] theorem State.latchInputs_mem (s : State) (now : Nat) (rnd : Byte) :
    (s.latchInputs now rnd).mem = s.mem := rfl
@[simp] theorem State.latchInputs_v (s : State) (now : Nat) (rnd : Byte) : (s.latchInputs now rnd).v = s.v := rfl
@[simp] theorem State.latchInputs_i (s : State) (now : Nat) (rnd : Byte) : (s.latchInputs now rnd).i = s.i := rfl
@[simp] theorem State.latchInputs_pc (s : State) (now : Nat) (rnd : Byte) : (s.latchInputs now rnd).pc = s.pc := rfl
@[simp] theorem State.latchInputs_stack (s : State) (now : Nat) (rnd : Byte) :
    (s.latchInputs now rnd).stack = s.stack := rfl
@[simp] theorem State.latchInputs_sp (s : State) (now : Nat) (rnd : Byte) : (s.latchInputs now rnd).sp = s.sp := rfl
@[simp] theorem State.latchInputs_dt (s : State) (now : Nat) (rnd : Byte) : (s.latchInputs now rnd).dt = s.dt := rfl
@[simp] theorem State.latchInputs_st (s : State) (now : Nat) (rnd : Byte) : (s.latchInputs now rnd).st = s.st := rfl
@[simp] theorem State.latchInputs_disp (s : State) (now : Nat) (rnd : Byte) :
    (s.latchInputs now rnd).disp = s.disp := rfl
@[simp] theorem State.latchInputs_key (s : State) (now : Nat) (rnd : Byte) :
    (s.latchInputs now rnd).key = s.key := rfl
@[simp] theorem State.latchInputs_wait (s : State) (now : Nat) (rnd : Byte) :
    (s.latchInputs now rnd).wait = s.wait := rfl
@[simp] theorem State.latchInputs_waitX (s : State) (now : Nat) (rnd : Byte) :
    (s.latchInputs now rnd).waitX = s.waitX := rfl
@[simp] theorem State.latchInputs_lastTick (s : State) (now : Nat) (rnd : Byte) :
    (s.latchInputs now rnd).lastTick = s.lastTick := rfl
@[simp] theorem State.latchInputs_halt (s : State) (now : Nat) (rnd : Byte) :
    (s.latchInputs now rnd).halt = s.halt := rfl
@[simp] theorem State.latchInputs_fcause (s : State) (now : Nat) (rnd : Byte) :
    (s.latchInputs now rnd).fcause = s.fcause := rfl
@[simp] theorem State.latchInputs_fval (s : State) (now : Nat) (rnd : Byte) :
    (s.latchInputs now rnd).fval = s.fval := rfl
@[simp] theorem State.latchInputs_nowIn (s : State) (now : Nat) (rnd : Byte) :
    (s.latchInputs now rnd).nowIn = now := rfl
@[simp] theorem State.latchInputs_rndIn (s : State) (now : Nat) (rnd : Byte) :
    (s.latchInputs now rnd).rndIn = rnd := rfl
@[simp] theorem State.latchInputs_stepNo (s : State) (now : Nat) (rnd : Byte) :
    (s.latchInputs now rnd).stepNo = s.stepNo + 1 := rfl
@[simp] theorem State.latchInputs_getV (s : State) (now : Nat) (rnd : Byte) (r : Nibble) : (s.latchInputs now rnd).getV r = s.getV r := rfl
@[simp] theorem State.latchInputs_byteAt (s : State) (now : Nat) (rnd : Byte) (k : Nat) : (s.latchInputs now rnd).byteAt k = s.byteAt k := rfl

/-! ### `State.timerTick` -/

@[simp] theorem State.timerTick_mem (s : State) : (s.timerTick).mem = s.mem := rfl
@[simp] theorem State.timerTick_v (s : State) : (s.timerTick).v = s.v := rfl
@[simp] theorem State.timerTick_i (s : State) : (s.timerTick).i = s.i := rfl
@[simp] theorem State.timerTick_pc (s : State) : (s.timerTick).pc = s.pc := rfl
@[simp] theorem State.timerTick_stack (s : State) : (s.timerTick).stack = s.stack := rfl
@[simp] theorem State.timerTick_sp (s : State) : (s.timerTick).sp = s.sp := rfl
@[simp] theorem State.timerTick_dt (s : State) : (s.timerTick).dt = countDown s.tickDue s.dt := rfl
@[simp] theorem State.timerTick_st (s : State) : (s.timerTick).st = countDown s.tickDue s.st := rfl
@[simp] theorem State.timerTick_disp (s : State) : (s.timerTick).disp = s.disp := rfl
@[simp] theorem State.timerTick_key (s : State) : (s.timerTick).key = s.key := rfl
@[simp] theorem State.timerTick_wait (s : State) : (s.timerTick).wait = s.wait := rfl
@[simp] theorem State.timerTick_waitX (s : State) : (s.timerTick).waitX = s.waitX := rfl
@[simp] theorem State.timerTick_lastTick (s : State) :
    (s.timerTick).lastTick = if s.tickDue then s.nowIn else s.lastTick := rfl
@[simp] theorem State.timerTick_halt (s : State) : (s.timerTick).halt = s.halt := rfl
@[simp] theorem State.timerTick_fcause (s : State) : (s.timerTick).fcause = s.fcause := rfl
@[simp] theorem State.timerTick_fval (s : State) : (s.timerTick).fval = s.fval := rfl
@[simp] theorem State.timerTick_nowIn (s : State) : (s.timerTick).nowIn = s.nowIn := rfl
@[simp] theorem State.timerTick_rndIn (s : State) : (s.timerTick).rndIn = s.rndIn := rfl
@[simp] theorem State.timerTick_stepNo (s : State) : (s.timerTick).stepNo = s.stepNo := rfl
@[simp] theorem State.timerTick_getV (s : State) (r : Nibble) : (s.timerTick).getV r = s.getV r := rfl
@[simp] theorem State.timerTick_byteAt (s : State) (k : Nat) : (s.timerTick).byteAt k = s.byteAt k := rfl

/-! ### `State.awaken` -/

@[simp] theorem State.awaken_mem (s : State) : (s.awaken).mem = s.mem := rfl
@[simp] theorem State.awaken_v (s : State) : (s.awaken).v = s.v := rfl
@[simp] theorem State.awaken_i (s : State) : (s.awaken).i = s.i := rfl
@[simp] theorem State.awaken_pc (s : State) : (s.awaken).pc = s.pc := rfl
@[simp] theorem State.awaken_stack (s : State) : (s.awaken).stack = s.stack := rfl
@[simp] theorem State.awaken_sp (s : State) : (s.awaken).sp = s.sp := rfl
@[simp] theorem State.awaken_dt (s : State) : (s.awaken).dt = s.dt := rfl
@[simp] theorem State.awaken_st (s : State) : (s.awaken).st = s.st := rfl
@[simp] theorem State.awaken_disp (s : State) : (s.awaken).disp = s.disp := rfl
@[simp] theorem State.awaken_key (s : State) : (s.awaken).key = s.key := rfl
@[simp] theorem State.awaken_wait (s : State) : (s.awaken).wait = false := rfl
@[simp] theorem State.awaken_waitX (s : State) : (s.awaken).waitX = s.waitX := rfl
@[simp] theorem State.awaken_lastTick (s : State) : (s.awaken).lastTick = s.lastTick := rfl
@[simp] theorem State.awaken_halt (s : State) : (s.awaken).halt = false := rfl
@[simp] theorem State.awaken_fcause (s : State) : (s.awaken).fcause = s.fcause := rfl
@[simp] theorem State.awaken_fval (s : State) : (s.awaken).fval = s.fval := rfl
@[simp] theorem State.awaken_nowIn (s : State) : (s.awaken).nowIn = s.nowIn := rfl
@[simp] theorem State.awaken_rndIn (s : State) : (s.awaken).rndIn = s.rndIn := rfl
@[simp] theorem State.awaken_stepNo (s : State) : (s.awaken).stepNo = s.stepNo := rfl
@[simp] theorem State.awaken_getV (s : State) (r : Nibble) : (s.awaken).getV r = s.getV r := rfl
@[simp] theorem State.awaken_byteAt (s : State) (k : Nat) : (s.awaken).byteAt k = s.byteAt k := rfl

end Sys2Proof.Machine
end

