-- ==== Sys2Proof/Laws/Memory.lean ====
section
/-! SUPPORT. The laws of memory: a read after a write to the same cell gives the value written, a write leaves every
other cell alone, and every operation keeps the canonical form. -/

namespace Sys2Proof.Machine

/-! ### One cell -/

@[simp] theorem Memory.read_nil (a : Nat) : Memory.read [] a = 0 := rfl

theorem Memory.read_cons (k : Nat) (b : Byte) (rest : Memory) (a : Nat) :
    Memory.read ((k, b) :: rest) a = if k = a then b else Memory.read rest a := rfl

theorem Memory.erase_cons (k : Nat) (b : Byte) (rest : Memory) (a : Nat) :
    Memory.erase ((k, b) :: rest) a = if k = a then Memory.erase rest a else (k, b) :: Memory.erase rest a := by
  by_cases h : k = a <;> simp [Memory.erase, h]

theorem Memory.mem_erase (m : Memory) (a : Nat) (e : Host.Cell) : e ∈ m.erase a ↔ e ∈ m ∧ e.1 ≠ a := by
  simp [Memory.erase]

theorem Memory.mem_insert (m : Memory) (a : Nat) (b : Byte) (e : Host.Cell) :
    e ∈ m.insert a b ↔ e = (a, b) ∨ e ∈ m := by
  induction m with
  | nil => simp [Memory.insert]
  | cons c rest ih =>
    obtain ⟨k, d⟩ := c
    rw [Memory.insert]
    split
    · simp
    · simp [ih, or_left_comm]

theorem Memory.read_erase (m : Memory) (a c : Nat) : (m.erase a).read c = if c = a then 0 else m.read c := by
  induction m with
  | nil => simp [Memory.erase]
  | cons e rest ih =>
    obtain ⟨k, b⟩ := e
    rw [Memory.erase_cons]
    by_cases hk : k = a
    · rw [if_pos hk, ih, Memory.read_cons]
      by_cases hc : c = a
      · simp [hc]
      · rw [if_neg hc, if_neg hc, if_neg (by omega)]
    · rw [if_neg hk, Memory.read_cons, ih, Memory.read_cons]
      by_cases hc : c = a
      · simp [hc, hk]
      · simp [hc]

theorem Memory.read_insert (m : Memory) (a : Nat) (b : Byte) (c : Nat) (fresh : ∀ e ∈ m, e.1 ≠ a) :
    (m.insert a b).read c = if c = a then b else m.read c := by
  induction m with
  | nil => by_cases h : a = c <;> simp [Memory.insert, Memory.read_cons, h, eq_comm]
  | cons e rest ih =>
    obtain ⟨k, d⟩ := e
    have hk : k ≠ a := fresh (k, d) (by simp)
    rw [Memory.insert]
    split
    · by_cases hc : a = c
      · simp [Memory.read_cons, hc]
      · rw [Memory.read_cons, if_neg hc, if_neg (fun h => hc h.symm)]
    · rw [Memory.read_cons, ih (fun e he => fresh e (by simp [he])), Memory.read_cons]
      by_cases hc : c = a
      · simp [hc, hk]
      · simp [hc]

/-- Everything a write of one cell does to reads. -/
theorem Memory.read_write (m : Memory) (a : Nat) (b : Byte) (c : Nat) :
    (m.write a b).read c = if c = a then b else m.read c := by
  rw [Memory.write]
  split
  · rename_i hb
    rw [Memory.read_erase, hb]
  · rw [Memory.read_insert _ _ _ _ (fun e he => ((m.mem_erase a e).1 he).2), Memory.read_erase]
    split <;> rfl

theorem Memory.read_write_same (m : Memory) (a : Nat) (b : Byte) : (m.write a b).read a = b := by
  simp [Memory.read_write]

theorem Memory.read_write_other (m : Memory) (a : Nat) (b : Byte) (c : Nat) (h : c ≠ a) :
    (m.write a b).read c = m.read c := by
  simp [Memory.read_write, h]

/-! ### The canonical form -/

theorem Memory.wf_cons (a : Nat) (b : Byte) (rest : Memory) :
    Memory.wf ((a, b) :: rest) = true ↔
      a < Config.memSize ∧ b ≠ 0 ∧ (∀ c ∈ rest, a < c.1) ∧ Memory.wf rest = true := by
  simp [Memory.wf, and_assoc]

theorem Memory.wf_nil : Memory.wf [] = true := rfl

theorem Memory.wf_erase (m : Memory) (a : Nat) (h : m.wf = true) : (m.erase a).wf = true := by
  induction m with
  | nil => exact h
  | cons e rest ih =>
    obtain ⟨k, b⟩ := e
    obtain ⟨hk, hb, hall, hrest⟩ := (Memory.wf_cons k b rest).1 h
    rw [Memory.erase_cons]
    split
    · exact ih hrest
    · exact (Memory.wf_cons _ _ _).2 ⟨hk, hb, fun c hc => hall c ((Memory.mem_erase rest a c).1 hc).1, ih hrest⟩

theorem Memory.wf_insert (m : Memory) (a : Nat) (b : Byte) (h : m.wf = true) (ha : a < Config.memSize) (hb : b ≠ 0)
    (fresh : ∀ e ∈ m, e.1 ≠ a) : (m.insert a b).wf = true := by
  induction m with
  | nil => exact (Memory.wf_cons a b []).2 ⟨ha, hb, by simp, rfl⟩
  | cons e rest ih =>
    obtain ⟨k, d⟩ := e
    obtain ⟨hk, hd, hall, hrest⟩ := (Memory.wf_cons k d rest).1 h
    have hne : k ≠ a := fresh (k, d) (by simp)
    rw [Memory.insert]
    split
    · rename_i hlt
      refine (Memory.wf_cons _ _ _).2 ⟨ha, hb, fun c hc => ?_, h⟩
      rcases List.mem_cons.1 hc with rfl | hc
      · exact hlt
      · exact Nat.lt_trans hlt (hall c hc)
    · rename_i hlt
      refine (Memory.wf_cons _ _ _).2 ⟨hk, hd, fun c hc => ?_, ih hrest (fun e he => fresh e (by simp [he]))⟩
      rcases (Memory.mem_insert rest a b c).1 hc with rfl | hc
      · show k < a
        omega
      · exact hall c hc

/-- A write of a cell of the address space keeps the canonical form. -/
theorem Memory.wf_write (m : Memory) (a : Nat) (b : Byte) (h : m.wf = true) (ha : a < Config.memSize) :
    (m.write a b).wf = true := by
  rw [Memory.write]
  split
  · exact m.wf_erase a h
  · exact (m.erase a).wf_insert a b (m.wf_erase a h) ha (by assumption) (fun e he => ((m.mem_erase a e).1 he).2)

/-- `MemWrite` keeps the canonical form, at any address (20_memory.md R46). -/
theorem Memory.wf_writeBytes (m : Memory) (bytes : List Byte) (addr : Nat) (h : m.wf = true) :
    (m.writeBytes addr bytes).wf = true := by
  induction bytes generalizing m addr with
  | nil => exact h
  | cons b bs ih => exact ih _ _ (m.wf_write _ b h (Nat.mod_lt _ (by decide)))

theorem State.wf_memWrite (s : State) (addr : Nat) (bytes : List Byte) (h : s.mem.wf = true) :
    (s.memWrite addr bytes).mem.wf = true := s.mem.wf_writeBytes bytes addr h

theorem State.wf_placeWord (s : State) (w : Word) (h : s.mem.wf = true) : (s.placeWord w).mem.wf = true :=
  s.wf_memWrite _ _ h

theorem State.wf_resetAt (now : Nat) : (State.resetAt now).mem.wf = true := rfl

theorem State.wf_reset : State.reset.mem.wf = true := rfl

/-! ### `MemWrite` and reads -/

/-- A cell outside the written range keeps its byte. -/
theorem Memory.read_writeBytes_outside (m : Memory) (bytes : List Byte) (addr c : Nat)
    (h : ∀ k < bytes.length, c ≠ (addr + k) % Config.memSize) :
    (m.writeBytes addr bytes).read c = m.read c := by
  induction bytes generalizing m addr with
  | nil => rfl
  | cons b bs ih =>
    rw [Memory.writeBytes, ih _ _ (fun k hk => ?_), Memory.read_write_other _ _ _ _ ?_]
    · simpa using h 0 (by simp)
    · have := h (k + 1) (by simpa using hk)
      rwa [show addr + 1 + k = addr + (k + 1) by omega]

/-- Byte `k` of at most 4096 written bytes is found in its cell: within 4096 successive addresses no two share a cell. -/
theorem Memory.read_writeBytes_inside (m : Memory) (bytes : List Byte) (addr k : Nat) (hk : k < bytes.length)
    (hlen : bytes.length ≤ Config.memSize) :
    (m.writeBytes addr bytes).read ((addr + k) % Config.memSize) = bytes[k] := by
  induction bytes generalizing m addr k with
  | nil => simp at hk
  | cons b bs ih =>
    have hlen' : bs.length + 1 ≤ 4096 := hlen
    cases k with
    | zero =>
      rw [Memory.writeBytes, Memory.read_writeBytes_outside, Memory.read_write]
      · simp
      · intro j hj heq
        simp only [Config.memSize] at heq
        omega
    | succ k =>
      have := ih (m.write (addr % Config.memSize) b) (addr + 1) k (by simpa using hk)
        (by simp only [Config.memSize]; omega)
      rw [Memory.writeBytes, show addr + (k + 1) = addr + 1 + k by omega, this]
      simp

/-- What the machine reads after its own `MemWrite`, inside the written range. -/
theorem State.byteAt_memWrite_inside (s : State) (bytes : List Byte) (addr a k : Nat) (hk : k < bytes.length)
    (hlen : bytes.length ≤ 4096) (ha : a % 4096 = (addr + k) % 4096) :
    (s.memWrite addr bytes).byteAt a = bytes[k] := by
  rw [State.byteAt, show a % Config.memSize = (addr + k) % Config.memSize from ha]
  exact s.mem.read_writeBytes_inside bytes addr k hk hlen

/-- What the machine reads after its own `MemWrite`, outside the written range. -/
theorem State.byteAt_memWrite_outside (s : State) (bytes : List Byte) (addr a : Nat)
    (h : ∀ k < bytes.length, a % 4096 ≠ (addr + k) % 4096) : (s.memWrite addr bytes).byteAt a = s.byteAt a :=
  s.mem.read_writeBytes_outside bytes addr _ h

end Sys2Proof.Machine
end

