-- ==== Sys2Proof/Laws/Ops.lean ====
section
/-! SUPPORT. What each shared operation over registers, stack, timers and the stall check can do, said once. -/

namespace Sys2Proof.Machine

/-! ### General registers -/

/-- Everything a register write does to register reads (10_state.md R11). -/
theorem State.getV_setV (s : State) (x r : Nibble) (b : Byte) :
    (s.setV x b).getV r = if r = x then b else s.getV r := by
  have hval : r = x ↔ x.toNat = r.toNat := by rw [← BitVec.toNat_inj, eq_comm]
  simp only [State.getV, State.setV, Vector.getElem_set, hval]

theorem State.getV_setV_same (s : State) (x : Nibble) (b : Byte) : (s.setV x b).getV x = b := by
  simp [State.getV_setV]

theorem State.getV_setV_other (s : State) (x r : Nibble) (b : Byte) (h : r ≠ x) :
    (s.setV x b).getV r = s.getV r := by
  simp [State.getV_setV, h]

/-- A flag write is a write of VF (10_state.md R12). -/
theorem State.getV_setFlag (s : State) (f : Byte) (r : Nibble) :
    (s.setFlag f).getV r = if r = 15 then f else s.getV r := State.getV_setV s 15 r f

/-- The block load of `Fx65`: it changes nothing but the registers. -/
theorem State.loadBlock_rest (s : State) (k : Nat) : s.loadBlock k = { s with v := (s.loadBlock k).v } := by
  induction k with
  | zero => rfl
  | succ k ih =>
    rw [State.loadBlock, ih]
    rfl

theorem State.loadBlock_byteAt (s : State) (k a : Nat) : (s.loadBlock k).byteAt a = s.byteAt a := by
  rw [State.loadBlock_rest]
  rfl

/-- Register `r` after the block load: the byte at `I + r` for the first `k` registers, else its old value
(43_index_memory.md R146). -/
theorem State.getV_loadBlock (s : State) (k : Nat) (hk : k ≤ 16) (r : Nibble) :
    (s.loadBlock k).getV r = if r.toNat < k then s.byteAt (s.i.toNat + r.toNat) else s.getV r := by
  induction k with
  | zero => rfl
  | succ k ih =>
    have hkk : (BitVec.ofNat 4 k).toNat = k := by simp; omega
    rw [State.loadBlock, State.getV_setV, ih (by omega)]
    by_cases hr : r = BitVec.ofNat 4 k
    · have : r.toNat = k := by rw [hr, hkk]
      simp [hr, hkk, State.dataBase]
    · have hne : r.toNat ≠ k := fun h => hr (BitVec.eq_of_toNat_eq (by rw [hkk, h]))
      rw [if_neg hr]
      by_cases hlt : r.toNat < k
      · rw [if_pos hlt, if_pos (by omega)]
      · rw [if_neg hlt, if_neg (by omega)]

theorem State.regBlock_length (s : State) (n : Nat) : (s.regBlock n).length = n := by simp [State.regBlock]

theorem State.regBlock_getElem (s : State) (n k : Nat) (h : k < (s.regBlock n).length) :
    (s.regBlock n)[k] = s.getV (BitVec.ofNat 4 k) := by
  simp [State.regBlock]

/-! ### Call stack -/

/-- A push answers none exactly on a full stack (10_state.md R15). -/
theorem State.push_eq_none (s : State) (w : Word) : s.push w = none ↔ s.sp.val = 16 := by
  have := s.sp.isLt
  unfold State.push
  split <;> simp <;> omega

/-- A push that answers puts the word on top and changes nothing else. -/
theorem State.push_eq_some (s t : State) (w : Word) (h : s.push w = some t) :
    ∃ hlt : s.sp.val < 16, t = { s with
      stack := s.stack.set s.sp.val w hlt, sp := ⟨s.sp.val + 1, Nat.succ_lt_succ hlt⟩ } := by
  unfold State.push at h
  split at h
  · exact ⟨_, (Option.some.inj h).symm⟩
  · cases h

theorem State.push_of_lt (s : State) (w : Word) (h : s.sp.val < 16) :
    s.push w = some { s with stack := s.stack.set s.sp.val w h, sp := ⟨s.sp.val + 1, Nat.succ_lt_succ h⟩ } := by
  simp [State.push, h]

/-- A pop answers none exactly on an empty stack (10_state.md R15). -/
theorem State.pop_eq_none (s : State) : s.pop = none ↔ s.sp.val = 0 := by
  unfold State.pop
  split <;> simp <;> omega

/-- A pop that answers gives the top entry, lowers `SP` by one and changes nothing else. -/
theorem State.pop_eq_some (s t : State) (w : Word) (h : s.pop = some (w, t)) :
    ∃ hlt : s.sp.val - 1 < 16, 0 < s.sp.val ∧ w = s.stack[s.sp.val - 1] ∧
      t = { s with sp := ⟨s.sp.val - 1, by omega⟩ } := by
  unfold State.pop at h
  split at h
  · rename_i hpos
    have hlt : s.sp.val - 1 < 16 := by have := s.sp.isLt; omega
    have := Option.some.inj h
    simp only [Prod.mk.injEq] at this
    exact ⟨hlt, hpos, this.1.symm, this.2.symm⟩
  · cases h

/-! ### Timers, stall check, inputs -/

/-- A timer after a due tick: one less, never below zero (10_state.md R16). -/
theorem countDown_due (t : Byte) : (countDown true t).toNat = t.toNat - 1 := by
  unfold countDown
  split
  · simp_all
  · rename_i h
    have hpos : t.toNat ≠ 0 := fun h0 => h (BitVec.eq_of_toNat_eq (by simpa using h0))
    have := t.isLt
    simp only [if_true, BitVec.toNat_sub]
    simp
    omega

/-- No tick, no change. -/
theorem countDown_not_due (t : Byte) : countDown false t = t := by
  unfold countDown
  split <;> simp_all

/-- The stall check is the wake of 40_step_cycle.md R83 or nothing. -/
theorem State.stallCheck_cases (s : State) :
    (s.key = 0 ∧ s.stallCheck = s) ∨ (s.key ≠ 0 ∧ s.stallCheck = (s.setV s.waitX s.key).setWait false) := by
  unfold State.stallCheck
  split
  · exact .inl ⟨by assumption, rfl⟩
  · exact .inr ⟨by assumption, rfl⟩

/-- Fetching looks at `PC` and memory only, so the tick before it does not change the opcode (40_step_cycle.md R82,
R84). -/
theorem State.fetchWord_ticked (s : State) (now : Nat) (rnd : Byte) :
    (s.latchInputs now rnd).timerTick.fetchWord = s.fetchWord := rfl

/-! ### One step -/

/-- Everything a step can do: halted, stalled or woken, or an instruction or an unsupported word (40_step_cycle.md
R91). -/
theorem stepWith_cases (now : Nat) (rnd : Byte) (s : State) :
    (s.halt = true ∧ stepWith now rnd s = .next s) ∨
    (s.halt = false ∧ s.wait = true ∧ stepWith now rnd s = .next (s.latchInputs now rnd).timerTick.stallCheck) ∨
    (s.halt = false ∧ s.wait = false ∧
      stepWith now rnd s = dispatch s.fetchWord (s.latchInputs now rnd).timerTick.advancePc) := by
  unfold stepWith
  cases hh : s.halt
  · cases hw : s.wait
    · right; right; simp [hw, State.fetchWord_ticked]
    · right; left; simp [hw]
  · left; simp

/-- Phase 6: the decoded instruction, or the fatal condition of an unsupported word (R87, R88). -/
theorem dispatch_cases (op : Word) (s : State) :
    (∃ i, decodeWord op = some i ∧ dispatch op s = exec i s) ∨
    (decodeWord op = none ∧ dispatch op s = .next (s.raise .unsupportedOpcode op)) := by
  unfold dispatch
  cases h : decodeWord op
  · exact .inr ⟨rfl, rfl⟩
  · exact .inl ⟨_, rfl, rfl⟩

end Sys2Proof.Machine
end

