-- ==== Sys2Proof/Laws/Display.lean ====
section
/-! SUPPORT. What drawing does to the display (44_display.md R162): each bit inverts its own cell or
nothing, what the whole draw XORs into a cell does not depend on the display, and the collision flag looks at the cells before the draw. -/

namespace Sys2Proof.Machine

/-- Inverting one cell leaves the others alone. -/
theorem Display.cell_flip (d : Display) (j k : Nat) (hj : j < 2048) :
    (d.flip j).cell k = (d.cell k ^^ decide (j = k)) := by
  have hrow : j / Config.dispWidth < 32 := by simp only [Config.dispWidth]; omega
  unfold Display.cell Display.flip
  rw [dif_pos hrow]
  by_cases hk : k / Config.dispWidth < 32
  · rw [dif_pos hk, dif_pos hk, Vector.getElem_set]
    by_cases heq : j / Config.dispWidth = k / Config.dispWidth
    · have hbit : (j % Config.dispWidth = k % Config.dispWidth) ↔ j = k := by
        simp only [Config.dispWidth] at *; omega
      have hcol : j % Config.dispWidth < 64 := Nat.mod_lt _ (by decide)
      rw [if_pos heq]
      simp only [heq, BitVec.getLsbD_xor, BitVec.getLsbD_twoPow, hcol, hbit, decide_true, Bool.true_and]
    · rw [if_neg heq, decide_eq_false (fun e => heq (by rw [e])), Bool.xor_false]
  · rw [dif_neg hk, dif_neg hk, decide_eq_false (fun e => hk (by rw [← e]; exact hrow)), Bool.xor_false]

@[simp] theorem Display.cell_blank (j : Nat) : Display.blank.cell j = false := by
  simp [Display.blank, Display.cell]

theorem Display.cell_beyond (d : Display) (j : Nat) (h : 2048 ≤ j) : d.cell j = false := by
  unfold Display.cell
  rw [dif_neg (by simp only [Config.dispWidth]; omega)]

/-- Two displays with the same cells are the same display. -/
theorem Display.ext_cells (d e : Display) (h : ∀ j < 2048, d.cell j = e.cell j) : d = e := by
  apply Vector.ext
  intro r hr
  apply BitVec.eq_of_getLsbD_eq
  intro c hc
  have hj := h (64 * r + c) (by omega)
  have hdiv : (64 * r + c) / Config.dispWidth = r := by simp only [Config.dispWidth]; omega
  have hmod : (64 * r + c) % Config.dispWidth = c := by simp only [Config.dispWidth]; omega
  simpa only [Display.cell, hdiv, hmod, hr, dif_pos] using hj

/-- Does a set bit of the sprite fall on cell `j` an odd number of times? -/
def pixelParity (pixels : List (Nat × Bool)) (j : Nat) : Bool :=
  pixels.foldl (fun b p => b ^^ (decide (p.1 < 2048) && p.2 && decide (p.1 = j))) false

theorem plot_cell (a : Display × Bool) (p : Nat × Bool) (j : Nat) :
    (plot a p).1.cell j = (a.1.cell j ^^ (decide (p.1 < 2048) && p.2 && decide (p.1 = j))) := by
  unfold plot
  split
  · rename_i hlt
    have hlt : p.1 < 2048 := hlt
    split
    · rename_i hb
      rw [Display.cell_flip _ _ _ hlt]
      simp [hlt, hb]
    · rename_i hb
      simp [hb]
  · rename_i hge
    have hge : ¬p.1 < 2048 := hge
    simp [hge]

theorem foldl_parity_start (pixels : List (Nat × Bool)) (j : Nat) (b : Bool) :
    pixels.foldl (fun b p => b ^^ (decide (p.1 < 2048) && p.2 && decide (p.1 = j))) b = (b ^^ pixelParity pixels j) := by
  unfold pixelParity
  induction pixels generalizing b with
  | nil => simp
  | cons p rest ih =>
    rw [List.foldl_cons, ih, List.foldl_cons, ih (false ^^ _)]
    simp

theorem foldl_plot_cell (pixels : List (Nat × Bool)) (a : Display × Bool) (j : Nat) :
    (pixels.foldl plot a).1.cell j = (a.1.cell j ^^ pixelParity pixels j) := by
  rw [← foldl_parity_start]
  induction pixels generalizing a with
  | nil => rfl
  | cons p rest ih => rw [List.foldl_cons, ih, plot_cell, List.foldl_cons]

/-- What a draw XORs into a cell does not depend on what the display holds. -/
theorem plotAll_cell (d : Display) (pixels : List (Nat × Bool)) (j : Nat) :
    (plotAll d pixels).1.cell j = (d.cell j ^^ pixelParity pixels j) :=
  foldl_plot_cell pixels (d, false) j

theorem plot_cell_other (a : Display × Bool) (p : Nat × Bool) (j : Nat) (h : j ≠ p.1) :
    (plot a p).1.cell j = a.1.cell j := by
  rw [plot_cell, decide_eq_false (p := p.1 = j) (fun e => h e.symm)]
  simp

theorem foldl_plot_cell_other (pixels : List (Nat × Bool)) (a : Display × Bool) (j : Nat)
    (h : ∀ p ∈ pixels, p.1 ≠ j) : (pixels.foldl plot a).1.cell j = a.1.cell j := by
  induction pixels generalizing a with
  | nil => rfl
  | cons p rest ih =>
    rw [List.foldl_cons, ih _ (fun q hq => h q (by simp [hq])), plot_cell_other]
    exact fun e => h p (by simp) e.symm

/-- A cell no bit of the sprite falls on keeps its value. -/
theorem plotAll_cell_outside (d : Display) (pixels : List (Nat × Bool)) (j : Nat) (h : ∀ p ∈ pixels, p.1 ≠ j) :
    (plotAll d pixels).1.cell j = d.cell j := foldl_plot_cell_other pixels (d, false) j h

theorem foldl_plot_cell_inside (pixels : List (Nat × Bool)) (a : Display × Bool) (p : Nat × Bool) (hp : p ∈ pixels)
    (distinct : (pixels.map Prod.fst).Nodup) (hlt : p.1 < 2048) :
    (pixels.foldl plot a).1.cell p.1 = (a.1.cell p.1 ^^ p.2) := by
  induction pixels generalizing a with
  | nil => simp at hp
  | cons q rest ih =>
    rw [List.map_cons, List.nodup_cons] at distinct
    rw [List.foldl_cons]
    rcases List.mem_cons.1 hp with rfl | hp
    · rw [foldl_plot_cell_other]
      · unfold plot
        rw [if_pos hlt]
        cases p.2
        · simp
        · simp [Display.cell_flip _ _ _ hlt]
      · intro r hr e
        exact distinct.1 (List.mem_map.2 ⟨r, hr, e⟩)
    · rw [ih _ hp distinct.2, plot_cell_other]
      intro e
      exact distinct.1 (List.mem_map.2 ⟨p, hp, e⟩)

/-- When no two bits share a cell, a bit inside the buffer is XORed into its cell. -/
theorem plotAll_cell_inside (d : Display) (pixels : List (Nat × Bool)) (p : Nat × Bool) (hp : p ∈ pixels)
    (distinct : (pixels.map Prod.fst).Nodup) (hlt : p.1 < 2048) :
    (plotAll d pixels).1.cell p.1 = (d.cell p.1 ^^ p.2) :=
  foldl_plot_cell_inside pixels (d, false) p hp distinct hlt

theorem foldl_plot_snd (pixels : List (Nat × Bool)) (a : Display × Bool)
    (distinct : (pixels.map Prod.fst).Nodup) :
    (pixels.foldl plot a).2 = true ↔ a.2 = true ∨ ∃ p ∈ pixels, p.1 < 2048 ∧ p.2 = true ∧ a.1.cell p.1 = true := by
  induction pixels generalizing a with
  | nil => simp
  | cons q rest ih =>
    rw [List.map_cons, List.nodup_cons] at distinct
    have hother : ∀ p ∈ rest, (plot a q).1.cell p.1 = a.1.cell p.1 := fun p hp =>
      plot_cell_other a q p.1 fun e => distinct.1 (List.mem_map.2 ⟨p, hp, e⟩)
    have hrest : (∃ p ∈ rest, p.1 < 2048 ∧ p.2 = true ∧ (plot a q).1.cell p.1 = true) ↔
        ∃ p ∈ rest, p.1 < 2048 ∧ p.2 = true ∧ a.1.cell p.1 = true := by
      constructor
      · rintro ⟨p, hp, h1, h2, h3⟩
        exact ⟨p, hp, h1, h2, by rw [← hother p hp]; exact h3⟩
      · rintro ⟨p, hp, h1, h2, h3⟩
        exact ⟨p, hp, h1, h2, by rw [hother p hp]; exact h3⟩
    have hq : (plot a q).2 = true ↔ a.2 = true ∨ (q.1 < 2048 ∧ q.2 = true ∧ a.1.cell q.1 = true) := by
      unfold plot
      by_cases h1 : q.1 < 2048
      · cases h2 : q.2 <;> simp [h1]
      · simp [h1]
    rw [List.foldl_cons, ih _ distinct.2, hrest, hq]
    simp only [List.mem_cons, exists_eq_or_imp, or_assoc]

/-- When no two bits share a cell, a collision is a set bit inside the buffer on a cell that held 1 before the draw. -/
theorem plotAll_snd (d : Display) (pixels : List (Nat × Bool)) (distinct : (pixels.map Prod.fst).Nodup) :
    (plotAll d pixels).2 = true ↔ ∃ p ∈ pixels, p.1 < 2048 ∧ p.2 = true ∧ d.cell p.1 = true := by
  have h := foldl_plot_snd pixels (d, false) distinct
  rw [plotAll, h]
  simp

/-- The bits of a sprite, named by row and column. -/
theorem State.mem_spritePixels (s : State) (px py n : Nat) (p : Nat × Bool) :
    p ∈ s.spritePixels px py n ↔ ∃ r < n, ∃ c < 8,
      p = (spriteIndex px py r c, spriteBit (s.byteAt (s.i.toNat + r)) c) := by
  simp [State.spritePixels, List.mem_flatMap, eq_comm]

/-- "Within one `Dxyn` no cell is touched twice" (44_display.md R162). -/
theorem State.spritePixels_distinct (s : State) (px py n : Nat) :
    ((s.spritePixels px py n).map Prod.fst).Nodup := by
  rw [State.spritePixels, List.map_flatMap, List.nodup_flatMap]
  constructor
  · intro r _
    rw [List.map_map]
    refine (List.nodup_range).map ?_
    intro c c' h
    simp only [Function.comp, spriteIndex] at h
    omega
  · refine (List.nodup_range).imp ?_
    intro r r' hne
    simp only [Function.onFun, List.map_map]
    rw [List.disjoint_left]
    intro j h1 h2
    simp only [List.mem_map, List.mem_range, Function.comp, spriteIndex, Config.dispWidth] at h1 h2
    obtain ⟨c, hc, rfl⟩ := h1
    obtain ⟨c', hc', h⟩ := h2
    omega

end Sys2Proof.Machine
end

