-- ==== Sys2Proof/Laws/Frame.lean ====
section
/-! SUPPORT. The frame of each named update: which elements of the state it leaves alone (10_state.md R10), said once. -/

namespace Sys2Proof.Safety

open Sys2Proof.Machine

theorem frame_refl (es : List Elem) (s : State) : FrameExcept es s s := by
  intro e _
  cases e <;> simp [Elem.Same]

theorem Elem.Same.trans {e : Elem} {s t u : State} (h : e.Same s t) (k : e.Same t u) : e.Same s u := by
  cases e <;> simp_all [Elem.Same]

theorem Elem.Same.symm {e : Elem} {s t : State} (h : e.Same s t) : e.Same t s := by
  cases e <;> simp_all [Elem.Same]

/-- Frames compose: what neither change touches is untouched. -/
theorem frame_trans {es fs : List Elem} {s t u : State} (h : FrameExcept es s t) (k : FrameExcept fs t u) :
    FrameExcept (es ++ fs) s u := by
  intro e he
  rw [List.mem_append, not_or] at he
  exact (h e he.1).trans (k e he.2)

/-- A frame with fewer exceptions is a frame with more. -/
theorem frame_weaken {es fs : List Elem} {s t : State} (h : FrameExcept es s t) (sub : ∀ e ∈ es, e ∈ fs) :
    FrameExcept fs s t := fun e he => h e fun m => he (sub e m)

theorem setV_frame (s : State) (x : Nibble) (b : Byte) : FrameExcept [.v] s (s.setV x b) := by
  intro e he
  cases e <;> first | (simp at he; done) | simp [Elem.Same]

theorem setFlag_frame (s : State) (f : Byte) : FrameExcept [.v] s (s.setFlag f) := setV_frame s 15 f

theorem loadBlock_frame (s : State) (k : Nat) : FrameExcept [.v] s (s.loadBlock k) := by
  intro e he
  rw [State.loadBlock_rest]
  cases e <;> first | (simp at he; done) | simp [Elem.Same]
  exact fun _ => rfl

theorem memWrite_frame (s : State) (addr : Nat) (bytes : List Byte) : FrameExcept [.mem] s (s.memWrite addr bytes) := by
  intro e he
  cases e <;> first | (simp at he; done) | simp [Elem.Same]

theorem setI_frame (s : State) (w : Word) : FrameExcept [.i] s (s.setI w) := by
  intro e he
  cases e <;> first | (simp at he; done) | simp [Elem.Same]

theorem setPc_frame (s : State) (w : Word) : FrameExcept [.pc] s (s.setPc w) := by
  intro e he
  cases e <;> first | (simp at he; done) | simp [Elem.Same]

theorem advancePc_frame (s : State) : FrameExcept [.pc] s s.advancePc := setPc_frame s _

theorem skipIf_frame (s : State) (cond : Bool) : FrameExcept [.pc] s (s.skipIf cond) := by
  intro e he
  cases e <;> first | (simp at he; done) | simp [Elem.Same]

theorem setDt_frame (s : State) (b : Byte) : FrameExcept [.dt] s (s.setDt b) := by
  intro e he
  cases e <;> first | (simp at he; done) | simp [Elem.Same]

theorem setSt_frame (s : State) (b : Byte) : FrameExcept [.st] s (s.setSt b) := by
  intro e he
  cases e <;> first | (simp at he; done) | simp [Elem.Same]

theorem setDisp_frame (s : State) (d : Display) : FrameExcept [.disp] s (s.setDisp d) := by
  intro e he
  cases e <;> first | (simp at he; done) | simp [Elem.Same]

theorem setWait_frame (s : State) (b : Bool) : FrameExcept [.wait] s (s.setWait b) := by
  intro e he
  cases e <;> first | (simp at he; done) | simp [Elem.Same]

theorem setWaitX_frame (s : State) (x : Nibble) : FrameExcept [.waitX] s (s.setWaitX x) := by
  intro e he
  cases e <;> first | (simp at he; done) | simp [Elem.Same]

theorem setKey_frame (s : State) (b : Byte) : FrameExcept [.key] s (s.setKey b) := by
  intro e he
  cases e <;> first | (simp at he; done) | simp [Elem.Same]

theorem raise_frame (s : State) (c : Condition) (op : Word) :
    FrameExcept [.halt, .fcause, .fval] s (s.raise c op) := by
  intro e he
  cases e <;> first | (simp at he; done) | simp [Elem.Same]

theorem latchInputs_frame (s : State) (now : Nat) (rnd : Byte) : FrameExcept [.inputs] s (s.latchInputs now rnd) := by
  intro e he
  cases e <;> first | (simp at he; done) | simp [Elem.Same]

theorem timerTick_frame (s : State) : FrameExcept [.dt, .st, .lastTick] s s.timerTick := by
  intro e he
  cases e <;> first | (simp at he; done) | simp [Elem.Same]

theorem push_frame {s t : State} {w : Word} (h : s.push w = some t) : FrameExcept [.stack, .sp] s t := by
  obtain ⟨hlt, rfl⟩ := State.push_eq_some s t w h
  intro e he
  cases e <;> first | (simp at he; done) | exact ⟨rfl, rfl, rfl⟩ | exact fun _ => rfl | rfl

theorem pop_frame {s t : State} {w : Word} (h : s.pop = some (w, t)) : FrameExcept [.sp] s t := by
  obtain ⟨hlt, _, _, rfl⟩ := State.pop_eq_some s t w h
  intro e he
  cases e <;> first | (simp at he; done) | exact ⟨rfl, rfl, rfl⟩ | exact fun _ => rfl | rfl

theorem stallCheck_frame (s : State) : FrameExcept [.v, .wait] s s.stallCheck := by
  rcases s.stallCheck_cases with ⟨_, h⟩ | ⟨_, h⟩ <;> rw [h]
  · exact frame_refl _ _
  · exact frame_trans (setV_frame s _ _) (setWait_frame _ _)

/-- A register write changes its register only. -/
theorem setV_regs (s : State) (x : Nibble) (b : Byte) : RegsExcept [x] s (s.setV x b) := fun r hr =>
  State.getV_setV_other s x r b (by simpa using hr)

/-- A skip adds 2 modulo 65536 when its condition holds (41_flow.md R105). -/
theorem skipIf_pc_toNat (s : State) (cond : Bool) :
    (s.skipIf cond).pc.toNat = (s.pc.toNat + if cond then 2 else 0) % 65536 := by
  cases cond
  · have := s.pc.isLt
    simp
    omega
  · simp [BitVec.toNat_add]

/-- The step of a core that is ready to execute (40_step_cycle.md R91): phase 6 on the state left by phases 1 to 5. -/
theorem stepWith_running {s : State} (h : Running s) (now : Nat) (rnd : Byte) :
    stepWith now rnd s = dispatch s.fetchWord (s.latchInputs now rnd).timerTick.advancePc := by
  rcases stepWith_cases now rnd s with g | g | g
  · simp [h.1] at g
  · simp [h.2] at g
  · exact g.2.2

/-- The fetched word depends on `PC` and memory only (40_step_cycle.md R84). -/
theorem fetchWord_congr {s t : State} (hpc : t.pc = s.pc) (hmem : ∀ a, t.byteAt a = s.byteAt a) :
    t.fetchWord = s.fetchWord := by
  simp only [State.fetchWord, hpc, hmem]

theorem run_succ (M : Host.Core) (k : Nat) {s t : M.State} (h : M.step s = .next t) : M.run (k + 1) s = M.run k t := by
  rw [Host.Core.run, h]

/-- One step, then the rest of the run. -/
theorem run_after_step {s t : State} (k : Nat) (h : step s = .next t) :
    Host.Core.run Sys2Proof.core (k + 1) s = Host.Core.run Sys2Proof.core k t := run_succ Sys2Proof.core k h

end Sys2Proof.Safety
end

