-- ==== Sys2Proof/Laws/PerInstr.lean ====
section
/-! SUPPORT. Statements made per instruction. Family RowMatch: an instruction is well formed, its word selects its row of
the opcode table (`op & mask = match`, 30_encoding.md R75), and that row is one of the table's 34. -/

namespace Sys2Proof.Laws.RowMatch

def Statement (i : Instr) : Prop :=
  i.wf = true ∧ (opcodeRow i).selects (encode i) = true ∧ opcodeRow i ∈ opcodeRows

/-! ### One lemma per format -/

theorem selects_a (f : Nibble) (nnn : Addr) : OpcodeRow.selects ⟨encA f 0, 0xF000⟩ (encA f nnn) = true := by
  simp only [OpcodeRow.selects, encA_and_F000, beq_self_eq_true]

theorem selects_xk (f x : Nibble) (kk : Byte) : OpcodeRow.selects ⟨encXK f 0 0, 0xF000⟩ (encXK f x kk) = true := by
  simp only [OpcodeRow.selects, encXK_and_F000, beq_self_eq_true]

theorem selects_x (f x : Nibble) (kk : Byte) : OpcodeRow.selects ⟨encXK f 0 kk, 0xF0FF⟩ (encXK f x kk) = true := by
  simp only [OpcodeRow.selects, encXK_and_F0FF, beq_self_eq_true]

theorem selects_xy (f x y n : Nibble) : OpcodeRow.selects ⟨encXYN f 0 0 n, 0xF00F⟩ (encXYN f x y n) = true := by
  simp only [OpcodeRow.selects, encXYN_and_F00F, beq_self_eq_true]

theorem selects_xyn (f x y n : Nibble) : OpcodeRow.selects ⟨encXYN f 0 0 0, 0xF000⟩ (encXYN f x y n) = true := by
  simp only [OpcodeRow.selects, encXYN_and_F000, beq_self_eq_true]

/-! ### One lemma per constructor -/

theorem cls : Statement .cls := ⟨rfl, rfl, by decide⟩
theorem ret : Statement .ret := ⟨rfl, rfl, by decide⟩
theorem jp (nnn : Addr) : Statement (.jp nnn) :=
  ⟨rfl, selects_a 0x1 nnn, by simp only [opcodeRow]; decide⟩
theorem call (nnn : Addr) : Statement (.call nnn) :=
  ⟨rfl, selects_a 0x2 nnn, by simp only [opcodeRow]; decide⟩
theorem sek (x : Nibble) (kk : Byte) : Statement (.sek x kk) :=
  ⟨rfl, selects_xk 0x3 x kk, by simp only [opcodeRow]; decide⟩
theorem snek (x : Nibble) (kk : Byte) : Statement (.snek x kk) :=
  ⟨rfl, selects_xk 0x4 x kk, by simp only [opcodeRow]; decide⟩
theorem ser (x : Nibble) (y : Nibble) : Statement (.ser x y) :=
  ⟨rfl, selects_xy 0x5 x y 0x0, by simp only [opcodeRow]; decide⟩
theorem ldk (x : Nibble) (kk : Byte) : Statement (.ldk x kk) :=
  ⟨rfl, selects_xk 0x6 x kk, by simp only [opcodeRow]; decide⟩
theorem addk (x : Nibble) (kk : Byte) : Statement (.addk x kk) :=
  ⟨rfl, selects_xk 0x7 x kk, by simp only [opcodeRow]; decide⟩
theorem mov (x : Nibble) (y : Nibble) : Statement (.mov x y) :=
  ⟨rfl, selects_xy 0x8 x y 0x0, by simp only [opcodeRow]; decide⟩
theorem or (x : Nibble) (y : Nibble) : Statement (.or x y) :=
  ⟨rfl, selects_xy 0x8 x y 0x1, by simp only [opcodeRow]; decide⟩
theorem and (x : Nibble) (y : Nibble) : Statement (.and x y) :=
  ⟨rfl, selects_xy 0x8 x y 0x2, by simp only [opcodeRow]; decide⟩
theorem xor (x : Nibble) (y : Nibble) : Statement (.xor x y) :=
  ⟨rfl, selects_xy 0x8 x y 0x3, by simp only [opcodeRow]; decide⟩
theorem add (x : Nibble) (y : Nibble) : Statement (.add x y) :=
  ⟨rfl, selects_xy 0x8 x y 0x4, by simp only [opcodeRow]; decide⟩
theorem sub (x : Nibble) (y : Nibble) : Statement (.sub x y) :=
  ⟨rfl, selects_xy 0x8 x y 0x5, by simp only [opcodeRow]; decide⟩
theorem shr (x : Nibble) (y : Nibble) : Statement (.shr x y) :=
  ⟨rfl, selects_xy 0x8 x y 0x6, by simp only [opcodeRow]; decide⟩
theorem subn (x : Nibble) (y : Nibble) : Statement (.subn x y) :=
  ⟨rfl, selects_xy 0x8 x y 0x7, by simp only [opcodeRow]; decide⟩
theorem shl (x : Nibble) (y : Nibble) : Statement (.shl x y) :=
  ⟨rfl, selects_xy 0x8 x y 0xE, by simp only [opcodeRow]; decide⟩
theorem sner (x : Nibble) (y : Nibble) : Statement (.sner x y) :=
  ⟨rfl, selects_xy 0x9 x y 0x0, by simp only [opcodeRow]; decide⟩
theorem ldi (nnn : Addr) : Statement (.ldi nnn) :=
  ⟨rfl, selects_a 0xA nnn, by simp only [opcodeRow]; decide⟩
theorem jpv0 (nnn : Addr) : Statement (.jpv0 nnn) :=
  ⟨rfl, selects_a 0xB nnn, by simp only [opcodeRow]; decide⟩
theorem rnd (x : Nibble) (kk : Byte) : Statement (.rnd x kk) :=
  ⟨rfl, selects_xk 0xC x kk, by simp only [opcodeRow]; decide⟩
theorem drw (x : Nibble) (y : Nibble) (n : Nibble) : Statement (.drw x y n) :=
  ⟨rfl, selects_xyn 0xD x y n, by simp only [opcodeRow]; decide⟩
theorem skp (x : Nibble) : Statement (.skp x) :=
  ⟨rfl, selects_x 0xE x 0x9E, by simp only [opcodeRow]; decide⟩
theorem sknp (x : Nibble) : Statement (.sknp x) :=
  ⟨rfl, selects_x 0xE x 0xA1, by simp only [opcodeRow]; decide⟩
theorem getdt (x : Nibble) : Statement (.getdt x) :=
  ⟨rfl, selects_x 0xF x 0x07, by simp only [opcodeRow]; decide⟩
theorem waitk (x : Nibble) : Statement (.waitk x) :=
  ⟨rfl, selects_x 0xF x 0x0A, by simp only [opcodeRow]; decide⟩
theorem setdt (x : Nibble) : Statement (.setdt x) :=
  ⟨rfl, selects_x 0xF x 0x15, by simp only [opcodeRow]; decide⟩
theorem setst (x : Nibble) : Statement (.setst x) :=
  ⟨rfl, selects_x 0xF x 0x18, by simp only [opcodeRow]; decide⟩
theorem addi (x : Nibble) : Statement (.addi x) :=
  ⟨rfl, selects_x 0xF x 0x1E, by simp only [opcodeRow]; decide⟩
theorem font (x : Nibble) : Statement (.font x) :=
  ⟨rfl, selects_x 0xF x 0x29, by simp only [opcodeRow]; decide⟩
theorem bcd (x : Nibble) : Statement (.bcd x) :=
  ⟨rfl, selects_x 0xF x 0x33, by simp only [opcodeRow]; decide⟩
theorem store (x : Nibble) : Statement (.store x) :=
  ⟨rfl, selects_x 0xF x 0x55, by simp only [opcodeRow]; decide⟩
theorem load (x : Nibble) : Statement (.load x) :=
  ⟨rfl, selects_x 0xF x 0x65, by simp only [opcodeRow]; decide⟩

end Sys2Proof.Laws.RowMatch
end

