-- ==== Sys2Proof/Tests/Slice0.lean ====
section
/-! SUPPORT. The model's own tests, each about one step or one word, and the witnesses: for every statement with
hypotheses a concrete state and operands that meet them. Expected results are those of 95_test_vectors.md (the vector is
named in each comment) or computed by hand from the rule named. -/

namespace Sys2Proof.Tests

open Sys2Proof.Machine Sys2Proof.Safety

/-! ### Builders -/

/-- The state an answer leads to; a stop would lead back to the reset state and so fail the test. -/
def after : Result → State
  | .next t => t
  | .fault _ => State.reset
  | .refused _ => State.reset

/-- A running core with the word `w` at 0x200 and `PC = 0x200`, everything else as after reset. -/
def at200 (w : Word) : State := ({ State.reset with pc := 0x200 } : State).placeWord w

/-- One step with `now = 0`, `rnd = 0`: the convention of 95_test_vectors.md. -/
def ran (s : State) : State := after (stepWith 0 0 s)

/-- A row of display cells from index `j` on, as a list of bits. -/
def cells (s : State) (j n : Nat) : List Bool := (List.range n).map fun k => s.disp.cell (j + k)

/-! ### Words (95_test_vectors.md §2.1) -/

theorem test_decode_Z :
    decodeWord 0x00E0 = some (.cls) ∧
    decodeWord 0x00EE = some (.ret) := by decide

theorem test_encode_Z :
    encode (.cls) = 0x00E0 ∧
    encode (.ret) = 0x00EE := by decide

theorem test_decode_A :
    decodeWord 0x1ABC = some (.jp 0xABC) ∧
    decodeWord 0x2F00 = some (.call 0xF00) ∧
    decodeWord 0xA123 = some (.ldi 0x123) ∧
    decodeWord 0xB200 = some (.jpv0 0x200) := by decide

theorem test_encode_A :
    encode (.jp 0xABC) = 0x1ABC ∧
    encode (.call 0xF00) = 0x2F00 ∧
    encode (.ldi 0x123) = 0xA123 ∧
    encode (.jpv0 0x200) = 0xB200 := by decide

theorem test_decode_XK :
    decodeWord 0x3A7F = some (.sek 0xA 0x7F) ∧
    decodeWord 0x4001 = some (.snek 0 0x01) ∧
    decodeWord 0x6FFF = some (.ldk 0xF 0xFF) ∧
    decodeWord 0x7E10 = some (.addk 0xE 0x10) ∧
    decodeWord 0xC10F = some (.rnd 1 0x0F) := by decide

theorem test_encode_XK :
    encode (.sek 0xA 0x7F) = 0x3A7F ∧
    encode (.snek 0 0x01) = 0x4001 ∧
    encode (.ldk 0xF 0xFF) = 0x6FFF ∧
    encode (.addk 0xE 0x10) = 0x7E10 ∧
    encode (.rnd 1 0x0F) = 0xC10F := by decide

theorem test_decode_XY :
    decodeWord 0x5AB0 = some (.ser 0xA 0xB) ∧
    decodeWord 0x8120 = some (.mov 1 2) ∧
    decodeWord 0x8121 = some (.or 1 2) ∧
    decodeWord 0x8122 = some (.and 1 2) ∧
    decodeWord 0x8123 = some (.xor 1 2) ∧
    decodeWord 0x8124 = some (.add 1 2) ∧
    decodeWord 0x8125 = some (.sub 1 2) ∧
    decodeWord 0x8126 = some (.shr 1 2) ∧
    decodeWord 0x8127 = some (.subn 1 2) ∧
    decodeWord 0x812E = some (.shl 1 2) ∧
    decodeWord 0x9AB0 = some (.sner 0xA 0xB) := by decide

theorem test_encode_XY :
    encode (.ser 0xA 0xB) = 0x5AB0 ∧
    encode (.mov 1 2) = 0x8120 ∧
    encode (.or 1 2) = 0x8121 ∧
    encode (.and 1 2) = 0x8122 ∧
    encode (.xor 1 2) = 0x8123 ∧
    encode (.add 1 2) = 0x8124 ∧
    encode (.sub 1 2) = 0x8125 ∧
    encode (.shr 1 2) = 0x8126 ∧
    encode (.subn 1 2) = 0x8127 ∧
    encode (.shl 1 2) = 0x812E ∧
    encode (.sner 0xA 0xB) = 0x9AB0 := by decide

theorem test_decode_XYN :
    decodeWord 0xD125 = some (.drw 1 2 5) := by decide

theorem test_encode_XYN :
    encode (.drw 1 2 5) = 0xD125 := by decide

theorem test_decode_X :
    decodeWord 0xE29E = some (.skp 2) ∧
    decodeWord 0xE2A1 = some (.sknp 2) ∧
    decodeWord 0xF307 = some (.getdt 3) ∧
    decodeWord 0xF00A = some (.waitk 0) ∧
    decodeWord 0xF315 = some (.setdt 3) ∧
    decodeWord 0xF318 = some (.setst 3) ∧
    decodeWord 0xF21E = some (.addi 2) ∧
    decodeWord 0xF329 = some (.font 3) ∧
    decodeWord 0xF233 = some (.bcd 2) ∧
    decodeWord 0xF255 = some (.store 2) ∧
    decodeWord 0xFF65 = some (.load 0xF) := by decide

theorem test_encode_X :
    encode (.skp 2) = 0xE29E ∧
    encode (.sknp 2) = 0xE2A1 ∧
    encode (.getdt 3) = 0xF307 ∧
    encode (.waitk 0) = 0xF00A ∧
    encode (.setdt 3) = 0xF315 ∧
    encode (.setst 3) = 0xF318 ∧
    encode (.addi 2) = 0xF21E ∧
    encode (.font 3) = 0xF329 ∧
    encode (.bcd 2) = 0xF233 ∧
    encode (.store 2) = 0xF255 ∧
    encode (.load 0xF) = 0xFF65 := by decide

/-- The words of §2.1 that must be unsupported. -/
theorem test_unsupported_words :
    (([0x0000, 0x00E1, 0x00EF, 0x01E0, 0x0FFF, 0x00FD, 0x00C1, 0x5001, 0x512F, 0x8128] : List Word)
      ++ [0x8129, 0x812A, 0x812B, 0x812C, 0x812D, 0x812F, 0x9001, 0x9ABF, 0xE000, 0xE19F]
      ++ [0xE1A0, 0xE29D, 0xF000, 0xF108, 0xF11F, 0xF130, 0xF175, 0xF185, 0xF1FF, 0xFFFF]).all
        (fun w => decodeWord w == none) = true := by decide

/-- Two bytes, high byte first (R60, §2.1 last line), and the decoder's two refusals by name. -/
theorem test_decode_bytes :
    decodeBytes [0x12, 0x34, 0x56] = .ok (.jp 0x234, [0x56]) ∧ decodeBytes [0x50, 0x01] = .error (.unsupported 0x5001) ∧
    decodeBytes [0x12] = .error .truncated := by decide

/-- The table word of a row is its match value, operand fields zero (R75). -/
theorem test_decode_table_word :
    decodeTableWord 16 0xF065 = some (.load 0) ∧ decodeTableWord 16 0x0000 = none := by decide

/-! ### Well-formedness -/

/-- Every value of every field is legal (R63, R71): no instruction is ill formed. -/
theorem test_wf_all_fields : (Instr.drw 15 15 15).wf = true ∧ (Instr.load 15).wf = true ∧ (Instr.jp 0xFFF).wf = true := by
  decide

/-- The check of `load_program` (R233, R4v): 1792 words fit, 1793 do not. -/
theorem test_programFits_boundary (words : List Word) :
    (words.length = 1792 → programFits words = true) ∧ (words.length = 1793 → programFits words = false) :=
  ⟨fun h => by simp [programFits, Config.progBase, Config.memSize, h],
    fun h => by simp [programFits, Config.progBase, Config.memSize, h]⟩

/-- Memory that is not canonical is refused: out of order, a repeat, a zero entry, an address beyond 0xFFF. -/
theorem test_memory_wf_refuses :
    Memory.wf [(2, 1), (1, 1)] = false ∧ Memory.wf [(1, 1), (1, 2)] = false ∧ Memory.wf [(1, 0)] = false ∧
    Memory.wf [(4096, 1)] = false ∧ Memory.wf [(0, 1), (4095, 2)] = true := by decide

/-! ### Control transfer (95_test_vectors.md §2.2) -/

/-- F1. -/
theorem test_jp :
    (ran (at200 0x1234)).pc = 0x0234 := by decide

/-- F3. -/
theorem test_call :
    let t := ran (at200 0x2300)
    t.stack[0] = 0x0202 ∧ t.sp = 1 ∧ t.pc = 0x0300 := by decide

/-- F6, step 17: a full stack, word 0x2200 at 0x200. -/
theorem test_call_full :
    let t := ran { at200 0x2200 with sp := 16 }
    t.halt = true ∧ t.fcause = 3 ∧ t.fval = 0x2200 ∧ t.pc = 0x0202 ∧ t.sp = 16 := by decide

/-- F4. -/
theorem test_ret :
    let t := ran { at200 0x00EE with stack := (Vector.replicate 16 0).set 0 0x0206, sp := 1 }
    t.pc = 0x0206 ∧ t.sp = 0 ∧ t.stack[0] = 0x0206 := by decide

/-- F5. -/
theorem test_ret_empty :
    let t := ran (at200 0x00EE)
    t.halt = true ∧ t.fcause = 2 ∧ t.fval = 0x00EE ∧ t.pc = 0x0202 ∧ t.sp = 0 ∧
      stepReport (at200 0x00EE) t = .fatal 2 0x00EE := by decide

/-- F7 (X8). -/
theorem test_jpv0 :
    (ran ((at200 0xB200).setV 0 0x10)).pc = 0x0210 := by decide

/-- F8. -/
theorem test_jpv0_unreduced :
    (ran ((at200 0xBFFF).setV 0 0xFF)).pc = 0x10FE := by decide

/-- F9, F10. -/
theorem test_sek :
    (ran ((at200 0x332A).setV 3 0x2A)).pc = 0x0204 ∧ (ran ((at200 0x332A).setV 3 0x2B)).pc = 0x0202 := by decide

/-- F11, F12. -/
theorem test_snek :
    (ran ((at200 0x432A).setV 3 0x2A)).pc = 0x0202 ∧ (ran ((at200 0x432A).setV 3 0x00)).pc = 0x0204 := by decide

/-- F13, and F16. -/
theorem test_ser :
    (ran (((at200 0x5120).setV 1 7).setV 2 7)).pc = 0x0204 ∧ (ran ((at200 0x5110).setV 1 9)).pc = 0x0204 := by decide

/-- F14, F15. -/
theorem test_sner :
    (ran (((at200 0x9120).setV 1 7).setV 2 7)).pc = 0x0202 ∧
    (ran (((at200 0x9120).setV 1 7).setV 2 8)).pc = 0x0204 := by decide

/-- X9. -/
theorem test_unsupported :
    let t := ran (at200 0x5001)
    t.halt = true ∧ t.fcause = 1 ∧ t.fval = 0x5001 ∧ t.pc = 0x0202 ∧ ran t = t := by decide

/-- F20, its second step: the high byte from 0xFFF, the low byte 0xF0 from 0x000. -/
theorem test_fetch_wraps :
    let t := ran ((({ State.reset with pc := 0x0FFF } : State).memWrite 0xFFF [0x61]).memWrite 0 [0xF0])
    t.getV 1 = 0xF0 ∧ t.pc = 0x1001 := by decide

/-- F21, its second step. -/
theorem test_fetch_odd :
    let t := ran (({ State.reset with pc := 0x0203 } : State).memWrite 0x203 [0x61, 0x2A])
    t.getV 1 = 0x2A ∧ t.pc = 0x0205 := by decide

/-! ### Registers (95_test_vectors.md §2.3) -/

/-- A1. -/
theorem test_ldk :
    (ran (at200 0x6A7F)).getV 0xA = 0x7F := by decide

/-- A3. -/
theorem test_addk :
    let t := ran ((at200 0x71FF).setV 15 9)
    t.getV 1 = 0xFF ∧ t.getV 15 = 9 := by decide

/-- A4. -/
theorem test_addk_VF :
    (ran ((at200 0x7F01).setV 15 0xFF)).getV 15 = 0x00 := by decide

/-- A5. -/
theorem test_mov :
    (ran ((at200 0x8120).setV 2 0x33)).getV 1 = 0x33 := by decide

/-- A6. -/
theorem test_or :
    let t := ran ((((at200 0x8121).setV 1 0xF0).setV 2 0x0F).setV 15 5)
    t.getV 1 = 0xFF ∧ t.getV 15 = 5 := by decide

/-- A6. -/
theorem test_and :
    let t := ran ((((at200 0x8122).setV 1 0xF3).setV 2 0x3F).setV 15 5)
    t.getV 1 = 0x33 ∧ t.getV 15 = 5 := by decide

/-- A6. -/
theorem test_xor :
    let t := ran ((((at200 0x8123).setV 1 0xFF).setV 2 0x0F).setV 15 5)
    t.getV 1 = 0xF0 ∧ t.getV 15 = 5 := by decide

/-- A7 (X1). -/
theorem test_add :
    let t := ran (((at200 0x8124).setV 1 0xFF).setV 2 0x01)
    let u := ran (((at200 0x8124).setV 1 0x01).setV 2 0x01)
    t.getV 1 = 0x00 ∧ t.getV 15 = 1 ∧ u.getV 1 = 0x02 ∧ u.getV 15 = 0 := by decide

/-- A8, A9. -/
theorem test_add_VF :
    let t := ran (((at200 0x8F14).setV 15 0xF0).setV 1 0x20)
    let u := ran (((at200 0x81F4).setV 1 0xFF).setV 15 0x01)
    t.getV 15 = 0x10 ∧ u.getV 1 = 0x00 ∧ u.getV 15 = 1 := by decide

/-- A11 (X2). -/
theorem test_sub :
    let t := ran (((at200 0x8125).setV 1 0x05).setV 2 0x03)
    let u := ran (((at200 0x8125).setV 1 0x03).setV 2 0x05)
    t.getV 1 = 0x02 ∧ t.getV 15 = 1 ∧ u.getV 1 = 0xFE ∧ u.getV 15 = 0 := by decide

/-- A13. -/
theorem test_sub_VF :
    let t := ran (((at200 0x8F15).setV 15 5).setV 1 3)
    let u := ran (((at200 0x81F5).setV 1 5).setV 15 3)
    t.getV 15 = 0xFE ∧ u.getV 1 = 0x04 ∧ u.getV 15 = 1 ∧ (ran ((at200 0x8FF5).setV 15 9)).getV 15 = 0 := by decide

/-- A17. -/
theorem test_shr :
    let t := ran ((((at200 0x8126).setV 1 0x05).setV 2 0xFF).setV 15 7)
    t.getV 1 = 0x02 ∧ t.getV 2 = 0xFF ∧ t.getV 15 = 7 := by decide

/-- A18. -/
theorem test_shr_VF :
    (ran ((at200 0x8F06).setV 15 0x03)).getV 15 = 0x01 := by decide

/-- A14, A15. -/
theorem test_subn :
    let t := ran (((at200 0x8127).setV 1 0x03).setV 2 0x05)
    let u := ran (((at200 0x8127).setV 1 0x05).setV 2 0x03)
    t.getV 1 = 0x02 ∧ t.getV 15 = 1 ∧ u.getV 1 = 0xFE ∧ u.getV 15 = 0 := by decide

/-- A16. -/
theorem test_subn_VF :
    let t := ran (((at200 0x8F17).setV 15 3).setV 1 5)
    let u := ran (((at200 0x81F7).setV 1 5).setV 15 3)
    t.getV 15 = 0x04 ∧ u.getV 1 = 0xFB ∧ u.getV 15 = 0 := by decide

/-- A19. -/
theorem test_shl :
    let t := ran ((((at200 0x812E).setV 1 0x81).setV 2 0x55).setV 15 7)
    t.getV 1 = 0x02 ∧ t.getV 2 = 0x55 ∧ t.getV 15 = 7 := by decide

/-- A20. -/
theorem test_shl_VF :
    (ran ((at200 0x8FFE).setV 15 0xC0)).getV 15 = 0x80 := by decide

/-- A21. -/
theorem test_rnd :
    (after (stepWith 0 0xB7 (at200 0xC10F))).getV 1 = 0x07 ∧
    (after (stepWith 0 0xB7 (at200 0xC1FF))).getV 1 = 0xB7 ∧ (after (stepWith 0 0xB7 (at200 0xC100))).getV 1 = 0x00 := by decide

/-! ### Index register and memory (95_test_vectors.md §2.4) -/

/-- M1. -/
theorem test_ldi :
    (ran (at200 0xA2F0)).i = 0x02F0 := by decide

/-- M2. -/
theorem test_addi :
    let t := ran (((at200 0xF21E).setI 0x0300).setV 2 0x10)
    t.i = 0x0310 ∧ t.getV 15 = 0 := by decide

/-- M3, M4. -/
theorem test_addi_unreduced :
    (ran (((at200 0xF11E).setI 0x0FFF).setV 1 1)).i = 0x1000 ∧
    (ran (((at200 0xF11E).setI 0xFFFF).setV 1 1)).i = 0x0000 := by decide

/-- M5. -/
theorem test_font :
    (ran ((at200 0xF329).setV 3 0x0A)).i = 0x0032 ∧ (ran ((at200 0xF329).setV 3 0xFF)).i = 0x04FB := by decide

/-- M6 (X5). -/
theorem test_bcd :
    (ran (((at200 0xF233).setI 0x300).setV 2 255)).memRead 0x300 3 = [2, 5, 5] ∧
    (ran (((at200 0xF233).setI 0x300).setV 2 199)).memRead 0x300 3 = [1, 9, 9] := by decide

/-- M7. -/
theorem test_bcd_wraps :
    let t := ran (((at200 0xF233).setI 0x0FFF).setV 2 123)
    t.byteAt 0xFFF = 1 ∧ t.byteAt 0x000 = 2 ∧ t.byteAt 0x001 = 3 := by decide

/-- M8. -/
theorem test_store :
    let t := ran (((((at200 0xF255).setI 0x0400).setV 0 0x11).setV 1 0x22).setV 2 0x33)
    t.memRead 0x400 4 = [0x11, 0x22, 0x33, 0] ∧ t.i = 0x0400 := by decide

/-- M9 with V2 = 0xA2, V3 = 0xA3 only, and M10. -/
theorem test_store_wraps :
    let t := ran ((((at200 0xF355).setI 0x0FFE).setV 2 0xA2).setV 3 0xA3)
    t.byteAt 0x000 = 0xA2 ∧ t.byteAt 0x001 = 0xA3 ∧
      (ran (((at200 0xF055).setI 0x1400).setV 0 0x11)).byteAt 0x400 = 0x11 := by decide

/-- M12. -/
theorem test_load :
    let t := ran (((at200 0xF165).setI 0x0200).setV 5 0x77)
    t.getV 0 = 0xF1 ∧ t.getV 1 = 0x65 ∧ t.getV 2 = 0 ∧ t.getV 5 = 0x77 := by decide

/-- M11, its last register: VF from `MEM[0x00F]`. -/
theorem test_load_VF :
    (ran ((at200 0xFF65).memWrite 0xF [0xF0])).getV 15 = 0xF0 := by decide

/-! ### Display (95_test_vectors.md §2.5) -/

/-- D1v, with three cells lit. -/
theorem test_cls :
    let t := ran (((at200 0x00E0).setDisp (((Display.blank.flip 0).flip 65).flip 2047)).setV 15 1)
    t.disp = Display.blank ∧ t.getV 15 = 1 := by decide

/-- D3v: two pixels spill to the next row. -/
theorem test_drw :
    let t := ran ((((at200 0xD011).memWrite 0x300 [0xF0]).setI 0x300).setV 0 62)
    cells t 61 6 = [false, true, true, true, true, false] ∧ t.getV 15 = 0 := by decide

/-- D6v: the bits beyond the buffer are dropped and none wraps to the top. -/
theorem test_drw_clips :
    let t := ran (((((at200 0xD011).memWrite 0x300 [0xFF]).setI 0x300).setV 0 60).setV 1 31)
    cells t 2043 5 = [false, true, true, true, true] ∧ cells t 0 4 = [false, false, false, false] ∧ t.getV 15 = 0 := by decide

/-- D7v, its second draw: cells 0, 1 lit, sprite 0x60 at (0, 0). -/
theorem test_drw_collides :
    let t := ran ((((at200 0xD011).memWrite 0x300 [0x60]).setI 0x300).setDisp ((Display.blank.flip 0).flip 1))
    cells t 0 4 = [true, false, true, false] ∧ t.getV 15 = 1 := by decide

/-- D11v: the column is the old VF; and D9v. -/
theorem test_drw_VF :
    let t := ran ((((at200 0xDF11).memWrite 0x300 [0x80]).setI 0x300).setV 15 5)
    let u := ran (((at200 0xD000).setV 15 1).setDisp (Display.blank.flip 0))
    cells t 4 3 = [false, true, false] ∧ t.getV 15 = 0 ∧ cells u 0 2 = [true, false] ∧ u.getV 15 = 0 := by decide

/-! ### Keyboard and timers (95_test_vectors.md §2.6, §2.7) -/

/-- K1, K2, K3, K4. -/
theorem test_skp :
    (ran (((at200 0xE29E).setV 2 0x07).setKey 0x07)).pc = 0x0204 ∧ (ran ((at200 0xE29E).setV 2 0x07)).pc = 0x0202 ∧
    (ran (at200 0xE29E)).pc = 0x0204 ∧ (ran (((at200 0xE29E).setV 2 0x17).setKey 0x07)).pc = 0x0202 := by decide

/-- K5, K6, K7, K8. -/
theorem test_sknp :
    (ran ((at200 0xE2A1).setV 2 0x07)).pc = 0x0204 ∧ (ran (((at200 0xE2A1).setV 2 0x07).setKey 0x07)).pc = 0x0202 ∧
    (ran (at200 0xE2A1)).pc = 0x0202 ∧ (ran ((at200 0xE2A1).setKey 0x03)).pc = 0x0204 := by decide

/-- K9, step 1: the key already held is not stored yet. -/
theorem test_waitk :
    let t := ran ((at200 0xFF0A).setKey 0x0B)
    t.wait = true ∧ t.waitX = 0xF ∧ t.pc = 0x0202 ∧ t.getV 15 = 0 := by decide

/-- K9, step 2, and a stalled step (X7). -/
theorem test_wake :
    let s := { at200 0x6101 with wait := true, waitX := 0xF }
    let t := ran (s.setKey 0x0B)
    t.getV 15 = 0x0B ∧ t.wait = false ∧ t.pc = 0x0200 ∧ t.getV 1 = 0 ∧ (ran s).wait = true ∧ (ran s).getV 15 = 0 := by decide

/-- T2, its third step: the tick comes first. -/
theorem test_getdt :
    let t := after (stepWith 16 0 ((at200 0xF307).setDt 0x2A))
    t.dt = 0x29 ∧ t.getV 3 = 0x29 := by decide

/-- T5. -/
theorem test_setdt :
    let t := ran ((at200 0xF315).setV 3 0x3C)
    t.dt = 0x3C ∧ t.lastTick = 0 := by decide

/-- T5. -/
theorem test_setst :
    let t := ran ((at200 0xF318).setSt 9)
    t.st = 0 ∧ t.soundActive = false := by decide

/-- T1 at 15 and 16, T3 at 80. -/
theorem test_tick :
    let s := ((at200 0x1200).setDt 5).setSt 1
    (after (stepWith 15 0 s)).dt = 5 ∧ (after (stepWith 16 0 s)).dt = 4 ∧ (after (stepWith 16 0 s)).st = 0 ∧
    (after (stepWith 80 0 s)).dt = 4 ∧ (after (stepWith 80 0 s)).lastTick = 80 := by decide

/-- T1 at 248: `LAST_TICK` follows even when both timers are zero. -/
theorem test_tick_at_zero :
    let t := after (stepWith 248 0 { at200 0x1200 with lastTick := 232 })
    t.dt = 0 ∧ t.st = 0 ∧ t.lastTick = 248 := by decide

/-- T4. -/
theorem test_halted :
    let s := { (at200 0x1200).setDt 5 with halt := true }
    after (stepWith 1000 0 s) = s := by decide

/-! ### Host operations (95_test_vectors.md §2.6, §2.8) -/

/-- R1v. -/
theorem test_reset_state :
    State.reset.wait = false ∧ (State.resetAt 123).lastTick = 123 ∧ (State.resetAt 123).byteAt 0 = 0 ∧
    (State.resetAt 123).pc = 0 := by decide

/-- R2v. -/
theorem test_step_without_load :
    let t := ran State.reset
    t.halt = true ∧ t.fcause = 1 ∧ t.fval = 0x0000 ∧ t.pc = 0x0002 := by decide

/-- K10, K11. -/
theorem test_keys :
    (State.reset.pressKey 0).key = 0 ∧ ((State.reset.pressKey 3).pressKey 9).key = 9 ∧
    ((State.reset.pressKey 3).releaseKey).key = 0 := by decide

/-- R8v. -/
theorem test_pack :
    packWords [0x12, 0x34, 0x56] = [0x1234] := by decide

/-- The probe places a word where the next step fetches it, also on a core that is halted and waiting. -/
theorem test_fetch_probe :
    let s := { State.reset with halt := true, wait := true, pc := 0x0FFF }
    (ran (s.withFetchWord 16 0x6A7F)).getV 0xA = 0x7F := by decide

set_option maxRecDepth 20000 in
/-- R3v and R5v, with the customary font of 20_memory.md R43 (PRESUMED, log entry 5). -/
theorem test_load_program :
    let t := (State.reset.loadProgramWith Config.customaryFont [0xABCD]).1
    t.memRead 0 5 = [0xF0, 0x90, 0x90, 0x90, 0xF0] ∧ t.byteAt 0x4F = 0x80 ∧ t.byteAt 0x50 = 0 ∧
      t.memRead 0x200 3 = [0xAB, 0xCD, 0] ∧ t.pc = 0x0200 := by decide

/-- R6v, R7v: a load leaves every other element, `HALT` among them. -/
theorem test_load_keeps_the_rest (font : Vector Byte 80) (words : List Word) (s : State) :
    (s.loadProgramWith font words).1.halt = s.halt ∧ (s.loadProgramWith font words).1.v = s.v ∧
      (s.loadProgramWith font words).1.wait = s.wait := by
  unfold State.loadProgramWith
  split <;> exact ⟨rfl, rfl, rfl⟩

/-! ### Witnesses: the hypotheses of the statements can be met -/

/-- A halted core that met an unsupported word, with a key latched and a timer running. -/
def haltedState : State := { at200 0x5001 with halt := true, fcause := 1, fval := 0x5001, key := 7, dt := 5, pc := 0x0202 }

/-- A core waiting for a key, destination VF. -/
def waitingState : State := { at200 0x6101 with wait := true, waitX := 0xF }

theorem witness_EncodeOfDecodeIsTheWord :
    decodeWord 0x8FF6 = some (.shr 15 15) ∧ decodeWord 0x1000 = some (.jp 0) := by decide

theorem witness_UnsupportedWordsMatchNoRow :
    decodeWord 0x5001 = none ∧ decodeWord 0x5AB0 = some (.ser 0xA 0xB) := by decide

theorem witness_OpcodeRowsDoNotOverlap :
    (⟨0xF065, 0xF0FF⟩ : OpcodeRow) ∈ opcodeRows ∧ (0xFF65 : Word) &&& 0xF0FF = 0xF065 := by decide

theorem witness_StepRunsTheDecodedInstruction :
    Running (at200 0x1234) ∧ decodeWord (at200 0x1234).fetchWord = some (.jp 0x234) :=
  ⟨⟨rfl, rfl⟩, by decide⟩

theorem witness_HaltedCoreIsAFixedPoint :
    haltedState.halt = true ∧ (HostOp.setKey 3).apply haltedState = .next (haltedState.pressKey 3) ∧
    ∀ now : Nat, HostOp.setKey 3 ≠ .coldReset now :=
  ⟨rfl, rfl, fun _ => by simp⟩

theorem witness_StalledStepWaitsOrWakes :
    waitingState.halt = false ∧ waitingState.wait = true ∧ waitingState.key = 0 ∧
    (waitingState.setKey 1).halt = false ∧ (waitingState.setKey 1).wait = true ∧ (waitingState.setKey 1).key ≠ 0 := by
  decide

/-- Both sides of the boundary, and a core that is not halted. -/
theorem witness_TimerTickDecrementsOnce :
    let s := { at200 0x1200 with lastTick := 100 }
    s.lastTick + 16 ≤ 116 ∧ (s.lastTick ≤ 115 ∧ 115 < s.lastTick + 16) ∧
    (s.lastTick ≤ 100 ∧ 100 < s.lastTick + 16) ∧ s.halt = false := by decide

theorem witness_UnsupportedWordHaltsTheCore :
    Running (at200 0x5001) ∧ decodeWord (at200 0x5001).fetchWord = none := ⟨⟨rfl, rfl⟩, by decide⟩

/-- One state for each of the four clauses; the last two at the boundaries of the depth. -/
theorem witness_OnlyThreeEventsHalt :
    (Running (at200 0x5001) ∧ decodeWord (at200 0x5001).fetchWord = none) ∧
    (Running (at200 0x00EE) ∧ decodeWord (at200 0x00EE).fetchWord = some .ret ∧ (at200 0x00EE).sp.val = 0) ∧
    (let s := { at200 0x2200 with sp := 16 }
     Running s ∧ decodeWord s.fetchWord = some (.call 0x200) ∧ s.sp.val = 16) ∧
    (let s := { at200 0x2200 with sp := 15 }
     Running s ∧ decodeWord s.fetchWord = some (.call 0x200) ∧ s.sp.val ≠ 16 ∧ ∃ t : State, stepWith 0 0 s = .next t) := by
  refine ⟨⟨⟨rfl, rfl⟩, by decide⟩, ⟨⟨rfl, rfl⟩, by decide, by decide⟩, ⟨⟨rfl, rfl⟩, by decide, by decide⟩,
    ⟨rfl, rfl⟩, by decide, by decide, _, rfl⟩

theorem witness_EveryInstructionCompletes :
    Instr.load 15 ≠ .ret ∧ (∀ nnn : Addr, Instr.load 15 ≠ .call nnn) := ⟨by decide, fun _ => by simp⟩

theorem witness_InstructionsWriteOnlyTheirElements :
    ∃ t : State, exec (.drw 0 1 15) (at200 0xD01F) = .next t := ⟨_, rfl⟩

/-- A destination, a flag and a register of the block of `Fx65` that change. -/
theorem witness_RegistersChangeOnlyByDestinationOrFlag :
    let s := ((at200 0x8124).setV 1 0xFF).setV 2 0x01
    (after (exec (.ldk 3 5) s)).getV 3 ≠ s.getV 3 ∧ (after (exec (.add 1 2) s)).getV 15 ≠ s.getV 15 ∧
      (after (exec (.load 2) s)).getV 2 ≠ s.getV 2 := by decide

/-- Both inputs due, both not due (one of them at `LAST_TICK` itself), and a ready core at a `Cxkk`. -/
theorem witness_InputsMatterOnlyThroughTickAndRnd :
    let s := { at200 0x1234 with lastTick := 100 }
    (s.lastTick ≤ 116 ∧ s.lastTick ≤ 199 ∧ (s.lastTick + 16 ≤ 116 ↔ s.lastTick + 16 ≤ 199)) ∧
    (s.lastTick ≤ 100 ∧ s.lastTick ≤ 115 ∧ (s.lastTick + 16 ≤ 100 ↔ s.lastTick + 16 ≤ 115)) ∧
    (∀ now ∈ [100, 115, 116, 199], ∃ t : State, stepWith now 7 s = .next t) ∧
    (∀ (x : Nibble) (kk : Byte), decodeWord s.fetchWord ≠ some (.rnd x kk)) ∧
    Running (at200 0xC10F) ∧ decodeWord (at200 0xC10F).fetchWord = some (.rnd 1 0x0F) ∧
    ∃ t u : State, stepWith 0 3 (at200 0xC10F) = .next t ∧ stepWith 15 5 (at200 0xC10F) = .next u := by
  have h : decodeWord ({ at200 0x1234 with lastTick := 100 } : State).fetchWord = some (.jp 0x234) := by decide
  refine ⟨by decide, by decide, fun now _ => ⟨_, stepWith_running ⟨rfl, rfl⟩ now 7⟩, fun x kk => ?_, ⟨rfl, rfl⟩, by decide,
    _, _, rfl, rfl⟩
  rw [h]
  simp

/-- A core that is not halted and one that is. -/
theorem witness_InputsAreLatchedByEveryLiveStep :
    (waitingState.halt = false ∧ ∃ t : State, stepWith 9 7 waitingState = .next t) ∧
    (haltedState.halt = true ∧ ∃ t : State, stepWith 9 7 haltedState = .next t) := ⟨⟨rfl, _, rfl⟩, rfl, _, rfl⟩

/-- The invariant holds of a halted core and of a running one that no reset leaves, and both step. -/
theorem witness_InvKeptByStep :
    Inv haltedState ∧ (∃ t : State, step haltedState = .next t) ∧
    Inv ((at200 0xF315).setV 3 7) ∧ ∃ t : State, step ((at200 0xF315).setV 3 7) = .next t := by
  refine ⟨⟨by decide, by decide, by decide, ⟨by decide, fun _ => by decide, by decide, ?_⟩, by decide, by decide⟩, ⟨_, rfl⟩,
    ⟨by decide, by decide, by decide, ⟨by decide, ?_, ?_, ?_⟩, by decide, by decide⟩, ?_⟩
  · intro h; exact absurd h (by decide)
  · intro h; exact absurd h (by decide)
  · intro h; exact absurd h (by decide)
  · intro h; exact absurd h (by decide)
  · rw [step, stepFree, stepWith_running ⟨rfl, rfl⟩, dispatch,
      show decodeWord ((at200 0xF315).setV 3 7).fetchWord = some (.setdt 3) by decide]
    exact ⟨_, rfl⟩

/-- One host operation of each kind on a state with the invariant, a step at the bound of the contract among them. -/
theorem witness_InvKeptByHostOperations :
    Inv haltedState ∧ haltedState.nowIn ≤ 0 ∧
    ((HostOp.coldReset 0).contract 0 = true ∧ ∃ t : State, (HostOp.coldReset 0).apply haltedState = .next t) ∧
    ((HostOp.step 0 0xFF).contract 0 = true ∧ ∃ t : State, (HostOp.step 0 0xFF).apply haltedState = .next t) ∧
    (∃ t : State, (HostOp.loadProgram [0x1200]).apply haltedState = .next t) ∧
    (∃ t : State, (HostOp.setKey 15).apply haltedState = .next t) ∧
    ∃ t : State, HostOp.clearKey.apply haltedState = .next t :=
  ⟨witness_InvKeptByStep.1, Nat.le_refl _, ⟨rfl, _, rfl⟩, ⟨rfl, _, rfl⟩, ⟨_, rfl⟩, ⟨_, rfl⟩, _, rfl⟩

/-- A state right after reset, one reached from it by a key press and a load, and one reached by a step. -/
theorem witness_InvHoldsInEveryReachableState :
    Reachable 5 (State.resetAt 5) ∧ Reachable 5 (((State.resetAt 5).pressKey 7).loadProgram [0x1200]).1 ∧
    ∃ t : State, Reachable 21 t ∧ stepWith 21 0 (State.resetAt 5) = .next t := by
  have r1 : Reachable 5 (State.resetAt 5) := .created 5
  have r2 : Reachable 5 ((State.resetAt 5).pressKey 7) := .next (.setKey 7) r1 rfl rfl
  exact ⟨r1, .next (.loadProgram [0x1200]) r2 rfl rfl, _, .next (.step 21 0) r1 rfl rfl, rfl⟩

/-- R239: the `now` of a step of a halted core binds the host although the core does not keep it (R81): no reset at 5
after a step at 1000, and one at 1000. -/
theorem test_contract_counts_halted_steps :
    (after ((HostOp.step 1000 0).apply haltedState)).nowIn = 0 ∧
    (HostOp.coldReset 5).contract ((HostOp.step 1000 0).clock 0) = false ∧
    (HostOp.coldReset 1000).contract ((HostOp.step 1000 0).clock 0) = true := by decide

theorem witness_IdleLoopStaysPut :
    Running (at200 0x1200) ∧ decodeWord (at200 0x1200).fetchWord = some (.jp 0x200) ∧
    (at200 0x1200).pc.toNat = (0x200 : Addr).toNat := ⟨⟨rfl, rfl⟩, by decide, by decide⟩

theorem witness_WaitFlagStateMachine :
    (Running (at200 0xF00A) ∧ decodeWord (at200 0xF00A).fetchWord = some (.waitk 0) ∧
      ∃ t : State, stepWith 0 0 (at200 0xF00A) = .next t) ∧
    (waitingState.halt = false ∧ waitingState.wait = true ∧ ∃ t : State, stepWith 0 0 waitingState = .next t) ∧
    (∃ t : State, HostOp.clearKey.apply waitingState = .next t) ∧
    (∃ t : State, (HostOp.coldReset 3).apply waitingState = .next t) :=
  ⟨⟨⟨rfl, rfl⟩, by decide, _, rfl⟩, ⟨rfl, rfl, _, rfl⟩, ⟨_, rfl⟩, ⟨_, rfl⟩⟩

/-- A timer that stays at zero, one that falls and one that is written. -/
theorem witness_TimersChangeOnlyByTickOrWrite :
    (∃ t : State, stepWith 16 0 (at200 0x1200) = .next t) ∧
    (∃ t : State, stepWith 16 0 ((at200 0x1200).setDt 1) = .next t) ∧
    (∃ t : State, stepWith 16 0 (at200 0xF315) = .next t) := ⟨⟨_, rfl⟩, ⟨_, rfl⟩, ⟨_, rfl⟩⟩

/-- The word stored at the wrap, and the last pair of the longest block. -/
theorem witness_StoreIsSeenByTheNextFetch :
    (let s := { (at200 0xF155).setI 0x0FFF with pc := 0x0FFF }
     (∃ t : State, exec (.store 1) s = .next t) ∧ 0 + 1 ≤ (1 : Nibble).toNat ∧
       s.pc.toNat % 4096 = (s.dataBase + 0) % 4096) ∧
    (let s := { (at200 0xFF55).setI 0x0FFA with pc := 0x0008 }
     (∃ t : State, exec (.store 15) s = .next t) ∧ 14 + 1 ≤ (15 : Nibble).toNat ∧
       s.pc.toNat % 4096 = (s.dataBase + 14) % 4096) :=
  ⟨⟨⟨_, rfl⟩, by decide, by decide⟩, ⟨⟨_, rfl⟩, by decide, by decide⟩⟩

theorem witness_DisplayAndMemoryHaveTheirOwnWriters :
    (let s := (at200 0x00E0).setDisp (Display.blank.flip 2047)
     (ran s).disp ≠ s.disp) ∧
    (let s := ((at200 0xF233).setI 0x0FFF).setV 2 123
     (ran s).byteAt 0xFFF ≠ s.byteAt 0xFFF) := by decide

theorem witness_KeyLatchIsTheHostsAlone :
    ∃ t : State, stepWith 0 0 (waitingState.setKey 0x0B) = .next t := ⟨_, rfl⟩

/-- The bounds of the accepted lengths, of the font, of the program and of the zero areas around it. -/
theorem witness_LoadProgramLaysOutMemory (w : Word) :
    0x200 + 2 * ([] : List Word).length ≤ 4096 ∧ 0x200 + 2 * (List.replicate 1792 w).length ≤ 4096 ∧ 79 < 80 ∧
    0 < [w].length ∧ 1791 < (List.replicate 1792 w).length ∧
    (80 < 4096 ∧ 80 ≤ 80 ∧ 80 < 0x200) ∧ (0x202 < 4096 ∧ 80 ≤ 0x202 ∧ 0x200 + 2 * [w].length ≤ 0x202) := by
  simp only [List.length_replicate, List.length_nil, List.length_cons]
  omega

theorem witness_LoadProgramRejectsTooLarge (w : Word) :
    1792 < (List.replicate 1793 w).length ∧ ¬1792 < (List.replicate 1792 w).length ∧
    (State.reset.loadProgram (List.replicate 1793 w)).2 = .programTooLarge := by
  have h := (test_programFits_boundary (List.replicate 1793 w)).2 (List.length_replicate ..)
  refine ⟨by rw [List.length_replicate]; omega, by rw [List.length_replicate]; omega, ?_⟩
  rw [State.loadProgram, State.loadProgramWith, h]
  rfl

theorem witness_LoadedWordIsFetchedBack (w : Word) :
    1791 < (List.replicate 1792 w).length ∧ 0x200 + 2 * (List.replicate 1792 w).length ≤ 4096 := by
  rw [List.length_replicate]
  omega

theorem witness_HostReadsShowDisplayAndSound :
    2047 < State.reset.readDisplay.length ∧ (State.reset.setSt 1).st.toNat ≠ 0 :=
  ⟨by simp [State.readDisplay], by decide⟩

/-- A return from depth 1 and from a full stack, and from an empty one. -/
theorem witness_ReturnPopsOrHalts :
    (0x00EE : Word) &&& 0xFFFF = 0x00EE ∧
    0 < ({ at200 0x00EE with sp := 1 } : State).sp.val ∧ 0 < ({ at200 0x00EE with sp := 16 } : State).sp.val ∧
    ({ at200 0x00EE with sp := 16 } : State).sp.val - 1 < 16 ∧ (at200 0x00EE).sp.val = 0 := by decide

theorem witness_JumpSetsPc : (0x1FFF : Word) &&& 0xF000 = 0x1000 := by decide

/-- A call at depth 0, into the last entry, and with the stack full. -/
theorem witness_CallPushesOrHalts :
    (0x2FFF : Word) &&& 0xF000 = 0x2000 ∧ (at200 0x2300).sp.val < 16 ∧
    ({ at200 0x2300 with sp := 15 } : State).sp.val < 16 ∧ ({ at200 0x2300 with sp := 16 } : State).sp.val = 16 := by decide

theorem witness_ReturnUndoesCall :
    ({ at200 0x2300 with sp := 15 } : State).sp.val < 16 ∧
    ∃ t u : State, exec (.call 0x300) { at200 0x2300 with sp := 15 } = .next t ∧ u.stack = t.stack ∧ u.sp = t.sp :=
  ⟨by decide, _, _, rfl, rfl, rfl⟩

theorem witness_JumpWithOffsetAddsV0 : (0xBFFF : Word) &&& 0xF000 = 0xB000 := by decide

theorem witness_SkipsOnImmediate :
    (0x332A : Word) &&& 0xF000 = 0x3000 ∧ (0x4FFF : Word) &&& 0xF000 = 0x4000 := by decide

theorem witness_SkipsOnRegisters :
    (0x5FF0 : Word) &&& 0xF00F = 0x5000 ∧ (0x9AB0 : Word) &&& 0xF00F = 0x9000 ∧
    ((0x5001 : Word) &&& 0xF000 = 0x5000 ∧ (0x5001 : Word) &&& 0x000F ≠ 0) ∧
    ((0x9ABF : Word) &&& 0xF000 = 0x9000 ∧ (0x9ABF : Word) &&& 0x000F ≠ 0) := by decide

theorem witness_ImmediateLoadAndAdd :
    (0x6FFF : Word) &&& 0xF000 = 0x6000 ∧ (0x7E10 : Word) &&& 0xF000 = 0x7000 := by decide

theorem witness_CopyAndLogicWriteOnlyTheDestination :
    (0x8FF0 : Word) &&& 0xF00F = 0x8000 ∧ (0x8121 : Word) &&& 0xF00F = 0x8001 ∧ (0x8122 : Word) &&& 0xF00F = 0x8002 ∧
    (0x8123 : Word) &&& 0xF00F = 0x8003 := by decide

/-- The destination VF and one that is not. -/
theorem witness_AddSetsCarryThenResult :
    (0x8F14 : Word) &&& 0xF00F = 0x8004 ∧ (14 : Nibble) ≠ 15 := by decide

/-- All four cases of `x` and `y` against VF. -/
theorem witness_SubtractIsSequential :
    (0x8FF5 : Word) &&& 0xF00F = 0x8005 ∧ ((14 : Nibble) ≠ 15 ∧ (0 : Nibble) ≠ 15) ∧ (15 : Nibble) = 15 := by decide

theorem witness_SubtractReversedIsSequential :
    (0x8FF7 : Word) &&& 0xF00F = 0x8007 ∧ ((14 : Nibble) ≠ 15 ∧ (0 : Nibble) ≠ 15) ∧ (15 : Nibble) = 15 := by decide

theorem witness_ShiftsLeaveTheFlagAlone :
    (0x8FF6 : Word) &&& 0xF00F = 0x8006 ∧ (0x8FFE : Word) &&& 0xF00F = 0x800E := by decide

theorem witness_RandomIsTheInputMasked :
    (0xCFFF : Word) &&& 0xF000 = 0xC000 ∧
    (Running (at200 0xC10F) ∧ decodeWord (at200 0xC10F).fetchWord = some (.rnd 1 0x0F)) ∧
    (∀ (x : Nibble) (kk : Byte), Instr.ldk 1 2 ≠ .rnd x kk) ∧ ∃ t : State, exec (.ldk 1 2) (at200 0x6102) = .next t :=
  ⟨by decide, ⟨⟨rfl, rfl⟩, by decide⟩, fun _ _ => by simp, _, rfl⟩

theorem witness_IndexRegisterWrites :
    (0xAFFF : Word) &&& 0xF000 = 0xA000 ∧ (0xFF1E : Word) &&& 0xF0FF = 0xF01E ∧ (0xF329 : Word) &&& 0xF0FF = 0xF029 := by
  decide

/-- The digits wrap past 0xFFF; a byte outside them. -/
theorem witness_BcdStoresThreeDigits :
    (0xF233 : Word) &&& 0xF0FF = 0xF033 ∧
    ∀ k < 3, 2 % 4096 ≠ (((at200 0xF233).setI 0x0FFF).dataBase + k) % 4096 := by decide

/-- The first and the last register of the longest block; a byte outside it. -/
theorem witness_StoreWritesTheRegisterBlock :
    (0xFF55 : Word) &&& 0xF0FF = 0xF055 ∧ (0 : Nibble).toNat ≤ (15 : Nibble).toNat ∧ (15 : Nibble).toNat ≤ (15 : Nibble).toNat ∧
    ∀ k ≤ (15 : Nibble).toNat, 15 % 4096 ≠ (((at200 0xFF55).setI 0x0FFF).dataBase + k) % 4096 := by decide

theorem witness_LoadReadsTheRegisterBlock :
    (0xFF65 : Word) &&& 0xF0FF = 0xF065 := by decide

theorem witness_ClearScreenZeroesEveryCell : (0x00E0 : Word) &&& 0xFFFF = 0x00E0 := by decide

/-- A sprite of one row at (60, 31): a bit on the last cell, one beyond the buffer, a cell outside the sprite, a
collision and a display that gives none. -/
theorem witness_DrawXorsTheSprite :
    let s := ((((at200 0xD011).memWrite 0x300 [0xFF]).setI 0x300).setV 0 60).setV 1 31
    let lit := s.setDisp (Display.blank.flip 2047)
    let idx : State → Nat → Nat → Nat := fun s r c => 64 * ((s.getV 1).toNat + r) + ((s.getV 0).toNat + c)
    (0xDFFF : Word) &&& 0xF000 = 0xD000 ∧ idx s 0 3 = 2047 ∧ idx s 0 4 = 2048 ∧
    (∀ r < (1 : Nibble).toNat, ∀ c < 8, idx s r c ≠ 2043) ∧
    (idx lit 0 3 < 2048 ∧ (lit.byteAt (lit.i.toNat + 0)).getLsbD (7 - 3) = true ∧ lit.disp.cell (idx lit 0 3) = true) ∧
    (∀ r < (1 : Nibble).toNat, ∀ c < 8, idx s r c < 2048 → (s.byteAt (s.i.toNat + r)).getLsbD (7 - c) = true →
      s.disp.cell (idx s r c) = false) := by decide

theorem witness_DrawTwiceRestoresTheDisplay :
    let s := ((((at200 0xD011).memWrite 0x300 [0xFF]).setI 0x300).setV 0 60).setV 1 31
    (0 : Nibble) ≠ 15 ∧ (1 : Nibble) ≠ 15 ∧
    ∃ t u : State, exec (.drw 0 1 1) s = .next t ∧ u.disp = t.disp ∧ u.i = t.i ∧ (∀ a : Nat, u.byteAt a = t.byteAt a) ∧
      RegsExcept [15] t u :=
  ⟨by decide, by decide, _, _, rfl, rfl, rfl, fun _ => rfl, fun _ _ => rfl⟩

theorem witness_SkipsOnKey :
    (0xEF9E : Word) &&& 0xF0FF = 0xE09E ∧ (0xEFA1 : Word) &&& 0xF0FF = 0xE0A1 := by decide

/-- No key latched and one latched when the wait begins. -/
theorem witness_WaitKeyDefersTheStore :
    (0xFF0A : Word) &&& 0xF0FF = 0xF00A ∧
    ((at200 0xFF0A).halt = false ∧ (at200 0xFF0A).key = 0 ∧ ∃ t : State, exec (.waitk 15) (at200 0xFF0A) = .next t) ∧
    (((at200 0xFF0A).setKey 1).halt = false ∧ ((at200 0xFF0A).setKey 1).key ≠ 0 ∧
      ∃ t : State, exec (.waitk 15) ((at200 0xFF0A).setKey 1) = .next t) :=
  ⟨by decide, ⟨rfl, rfl, _, rfl⟩, ⟨rfl, by decide, _, rfl⟩⟩

theorem witness_TimerReadsAndWrites :
    (0xFF07 : Word) &&& 0xF0FF = 0xF007 ∧ (0xF315 : Word) &&& 0xF0FF = 0xF015 ∧ (0xF318 : Word) &&& 0xF0FF = 0xF018 ∧
    (Running (at200 0xF307) ∧ decodeWord (at200 0xF307).fetchWord = some (.getdt 3)) :=
  ⟨by decide, by decide, by decide, ⟨rfl, rfl⟩, by decide⟩

end Sys2Proof.Tests
end

/-! PROOFS. The state family: what an instruction, a step and a host operation leave unchanged, and the invariant of
reachable states (10_state.md R12, R16 to R20, R25 to R30). -/

namespace Sys2Proof.Proofs

open Sys2Proof.Machine Sys2Proof.Safety

/-! ### What an instruction can do -/

/-- A return pops and jumps, or raises the underflow on an empty stack (41_flow.md R101). -/
theorem exec_ret_cases {s t : State} (h : exec .ret s = .next t) :
    (∃ (w : Word) (u : State), s.pop = some (w, u) ∧ t = u.setPc w) ∨
    (s.pop = none ∧ t = s.raise .callStackUnderflow (encode .ret)) := by
  change execRet s = .next t at h
  unfold execRet at h
  split at h
  next w u hpop => exact .inl ⟨w, u, hpop, (Host.Outcome.next.inj h).symm⟩
  next hpop => exact .inr ⟨hpop, (Host.Outcome.next.inj h).symm⟩

/-- A call pushes the advanced `PC` and jumps, or raises the overflow on a full stack (41_flow.md R103). -/
theorem exec_call_cases {nnn : Addr} {s t : State} (h : exec (.call nnn) s = .next t) :
    (∃ u : State, s.push s.pc = some u ∧ t = u.setPc (zextAddr nnn)) ∨
    (s.push s.pc = none ∧ t = s.raise .callStackOverflow (encode (.call nnn))) := by
  change execCall nnn s = .next t at h
  unfold execCall at h
  split at h
  next u hpush => exact .inl ⟨u, hpush, (Host.Outcome.next.inj h).symm⟩
  next hpush => exact .inr ⟨hpush, (Host.Outcome.next.inj h).symm⟩

/-- The access table of R25: the frame of each instruction is the frame of the updates it makes. -/
theorem exec_frame {i : Instr} {s t : State} (h : exec i s = .next t) : FrameExcept (writes i) s t := by
  cases i with
  | ret =>
    rcases exec_ret_cases h with ⟨w, u, hpop, rfl⟩ | ⟨-, rfl⟩
    · exact frame_weaken (frame_trans (pop_frame hpop) (setPc_frame u w)) (by simp [writes])
    · exact frame_weaken (raise_frame s _ _) (by simp [writes])
  | call nnn =>
    rcases exec_call_cases h with ⟨u, hpush, rfl⟩ | ⟨-, rfl⟩
    · exact frame_weaken (frame_trans (push_frame hpush) (setPc_frame u _)) (by simp [writes])
    · exact frame_weaken (raise_frame s _ _) (by simp [writes])
  | cls => obtain rfl := Host.Outcome.next.inj h; exact setDisp_frame s _
  | jp _ | jpv0 _ => obtain rfl := Host.Outcome.next.inj h; exact setPc_frame s _
  | sek _ _ | snek _ _ | ser _ _ | sner _ _ | skp _ | sknp _ =>
    obtain rfl := Host.Outcome.next.inj h
    exact skipIf_frame s _
  | ldk _ _ | addk _ _ | mov _ _ | or _ _ | and _ _ | xor _ _ | shr _ _ | shl _ _ | rnd _ _ | getdt _ =>
    obtain rfl := Host.Outcome.next.inj h
    exact setV_frame s _ _
  | add _ _ | sub _ _ | subn _ _ =>
    obtain rfl := Host.Outcome.next.inj h
    exact frame_weaken (frame_trans (setFlag_frame s _) (setV_frame _ _ _)) (by simp [writes])
  | load _ => obtain rfl := Host.Outcome.next.inj h; exact loadBlock_frame s _
  | ldi _ | addi _ | font _ => obtain rfl := Host.Outcome.next.inj h; exact setI_frame s _
  | drw _ _ _ =>
    obtain rfl := Host.Outcome.next.inj h
    exact frame_weaken (frame_trans (setDisp_frame s _) (setFlag_frame _ _)) (by simp [writes])
  | waitk _ =>
    obtain rfl := Host.Outcome.next.inj h
    exact frame_weaken (frame_trans (setWaitX_frame s _) (setWait_frame _ _)) (by simp [writes])
  | setdt _ => obtain rfl := Host.Outcome.next.inj h; exact setDt_frame s _
  | setst _ => obtain rfl := Host.Outcome.next.inj h; exact setSt_frame s _
  | bcd _ | store _ => obtain rfl := Host.Outcome.next.inj h; exact memWrite_frame s _ _

/-! The opcode each condition is raised with is the one R190 gives its cause. -/

theorem unsupportedOpcode_fits {op : Word} (h : decodeWord op = none) :
    CauseMatchesValue Condition.unsupportedOpcode.code op := by
  simp [CauseMatchesValue, Condition.code, h]

theorem callStackUnderflow_fits : CauseMatchesValue Condition.callStackUnderflow.code (encode .ret) := by
  simp [CauseMatchesValue, Condition.code]

theorem callStackOverflow_fits (nnn : Addr) :
    CauseMatchesValue Condition.callStackOverflow.code (encode (.call nnn)) := by
  simp only [CauseMatchesValue, Condition.code]
  exact ⟨by simp, by simp, by simp, fun _ => ⟨nnn, rfl⟩⟩

/-- An instruction raises one of its fatal conditions, with the value that fits it, or leaves the status registers alone
(60_exceptions.md R190, R191). -/
theorem exec_raises_or_keeps_status {i : Instr} {s t : State} (h : exec i s = .next t) :
    (∃ (c : Condition) (op : Word), CauseMatchesValue c.code op ∧ t = s.raise c op) ∨
    (t.halt = s.halt ∧ t.fcause = s.fcause ∧ t.fval = s.fval) := by
  cases i with
  | ret =>
    rcases exec_ret_cases h with ⟨w, u, hpop, rfl⟩ | ⟨-, rfl⟩
    · have frame := pop_frame hpop
      exact .inr ⟨frame .halt (by simp), frame .fcause (by simp), frame .fval (by simp)⟩
    · exact .inl ⟨_, _, callStackUnderflow_fits, rfl⟩
  | call nnn =>
    rcases exec_call_cases h with ⟨u, hpush, rfl⟩ | ⟨-, rfl⟩
    · have frame := push_frame hpush
      exact .inr ⟨frame .halt (by simp), frame .fcause (by simp), frame .fval (by simp)⟩
    · exact .inl ⟨_, _, callStackOverflow_fits nnn, rfl⟩
  | _ =>
    have frame := exec_frame h
    exact .inr ⟨frame .halt (by simp [writes]), frame .fcause (by simp [writes]), frame .fval (by simp [writes])⟩

/-- Every instruction keeps memory canonical: the two that write it do so by `MemWrite`. -/
theorem exec_keeps_mem_wf {i : Instr} {s t : State} (h : exec i s = .next t) (hwf : s.mem.wf = true) :
    t.mem.wf = true := by
  cases i with
  | bcd _ | store _ => obtain rfl := Host.Outcome.next.inj h; exact s.wf_memWrite _ _ hwf
  | ret =>
    rcases exec_ret_cases h with ⟨w, u, hpop, rfl⟩ | ⟨-, rfl⟩
    · obtain ⟨-, -, -, rfl⟩ := State.pop_eq_some s u w hpop
      exact hwf
    · exact hwf
  | call nnn =>
    rcases exec_call_cases h with ⟨u, hpush, rfl⟩ | ⟨-, rfl⟩
    · obtain ⟨-, rfl⟩ := State.push_eq_some s u s.pc hpush
      exact hwf
    · exact hwf
  | load _ =>
    obtain rfl := Host.Outcome.next.inj h
    rw [State.loadBlock_rest]
    exact hwf
  | _ => obtain rfl := Host.Outcome.next.inj h; exact hwf

/-! ### Which instruction writes which element -/

theorem eq_setdt_of_writes_dt {i : Instr} (h : Elem.dt ∈ writes i) : ∃ x : Nibble, i = .setdt x := by
  cases i with
  | setdt x => exact ⟨x, rfl⟩
  | _ => simp [writes] at h

theorem eq_setst_of_writes_st {i : Instr} (h : Elem.st ∈ writes i) : ∃ x : Nibble, i = .setst x := by
  cases i with
  | setst x => exact ⟨x, rfl⟩
  | _ => simp [writes] at h

theorem eq_cls_or_drw_of_writes_disp {i : Instr} (h : Elem.disp ∈ writes i) :
    i = .cls ∨ ∃ x y n : Nibble, i = .drw x y n := by
  cases i with
  | cls => exact .inl rfl
  | drw x y n => exact .inr ⟨x, y, n, rfl⟩
  | _ => simp [writes] at h

theorem eq_bcd_or_store_of_writes_mem {i : Instr} (h : Elem.mem ∈ writes i) :
    ∃ x : Nibble, i = .bcd x ∨ i = .store x := by
  cases i with
  | bcd x => exact ⟨x, .inl rfl⟩
  | store x => exact ⟨x, .inr rfl⟩
  | _ => simp [writes] at h

/-- No instruction writes the latch, `LAST_TICK` or the inputs: the host and the tick have them for themselves (R25). -/
theorem not_writes_host_elem (i : Instr) :
    Elem.key ∉ writes i ∧ Elem.lastTick ∉ writes i ∧ Elem.inputs ∉ writes i := by
  cases i <;> simp [writes]

/-! ### What a step can do -/

/-- A step that answers `t`, by what phases 0, 2 and 6 make of it: halted, stalled or woken, an instruction, or an
unsupported word (40_step_cycle.md R80). -/
theorem stepWith_next_cases {s t : State} {now : Nat} {rnd : Byte} (h : stepWith now rnd s = .next t) :
    (s.halt = true ∧ t = s) ∨
    (s.halt = false ∧ s.wait = true ∧ t = (s.latchInputs now rnd).timerTick.stallCheck) ∨
    (Running s ∧ ∃ i : Instr, decodeWord s.fetchWord = some i ∧
      exec i (s.latchInputs now rnd).timerTick.advancePc = .next t) ∨
    (Running s ∧ decodeWord s.fetchWord = none ∧
      t = (s.latchInputs now rnd).timerTick.advancePc.raise .unsupportedOpcode s.fetchWord) := by
  rcases stepWith_cases now rnd s with ⟨hhalt, hstep⟩ | ⟨hlive, hwait, hstep⟩ | ⟨hlive, hwait, hstep⟩
  · exact .inl ⟨hhalt, Host.Outcome.next.inj (h.symm.trans hstep)⟩
  · exact .inr (.inl ⟨hlive, hwait, Host.Outcome.next.inj (h.symm.trans hstep)⟩)
  · right; right
    rw [hstep] at h
    rcases dispatch_cases s.fetchWord (s.latchInputs now rnd).timerTick.advancePc with
      ⟨i, hdec, hdisp⟩ | ⟨hdec, hdisp⟩
    · exact .inl ⟨⟨hlive, hwait⟩, i, hdec, hdisp.symm.trans h⟩
    · exact .inr ⟨⟨hlive, hwait⟩, hdec, Host.Outcome.next.inj (h.symm.trans hdisp)⟩

/-- A live step leaves an element as the tick left it, or executes an instruction that may write the element; the
elements the step's other phases write are excepted. -/
theorem stepWith_same_or_executes {s t : State} {now : Nat} {rnd : Byte} {e : Elem} (hlive : s.halt = false)
    (h : stepWith now rnd s = .next t) (he : e ∉ [.pc, .v, .wait, .halt, .fcause, .fval]) :
    e.Same (s.latchInputs now rnd).timerTick t ∨
    ∃ i : Instr, e ∈ writes i ∧ decodeWord s.fetchWord = some i ∧
      exec i (s.latchInputs now rnd).timerTick.advancePc = .next t := by
  have advanced := advancePc_frame (s.latchInputs now rnd).timerTick
  rcases stepWith_next_cases h with ⟨hhalt, -⟩ | ⟨-, -, rfl⟩ | ⟨-, i, hdec, hexec⟩ | ⟨-, -, rfl⟩
  · simp [hlive] at hhalt
  · exact .inl (frame_weaken (stallCheck_frame _) (by simp) e he)
  · by_cases hw : e ∈ writes i
    · exact .inr ⟨i, hw, hdec, hexec⟩
    · exact .inl ((advanced e (by simp_all)).trans (exec_frame hexec e hw))
  · exact .inl (frame_weaken (frame_trans advanced (raise_frame _ _ _)) (by simp) e he)

/-- A step of a halted core changes nothing (40_step_cycle.md R81). -/
theorem stepWith_halted {s t : State} {now : Nat} {rnd : Byte} (hhalt : s.halt = true)
    (h : stepWith now rnd s = .next t) : t = s := by
  rcases stepWith_next_cases h with ⟨-, rfl⟩ | ⟨hlive, -⟩ | ⟨⟨hlive, -⟩, -⟩ | ⟨⟨hlive, -⟩, -⟩
  · rfl
  all_goals simp [hhalt] at hlive

/-- Any step leaves an element alone or executes an instruction that may write it; the elements written by the step's
own phases are excepted. -/
theorem stepWith_same_or_decodes {s t : State} {now : Nat} {rnd : Byte} {e : Elem} (h : stepWith now rnd s = .next t)
    (he : e ∉ [.inputs, .dt, .st, .lastTick, .pc, .v, .wait, .halt, .fcause, .fval]) :
    e.Same s t ∨ ∃ i : Instr, e ∈ writes i ∧ decodeWord s.fetchWord = some i := by
  cases hhalt : s.halt with
  | true =>
    obtain rfl := stepWith_halted hhalt h
    exact .inl (frame_refl [] t e (by simp))
  | false =>
    have ticked := frame_trans (latchInputs_frame s now rnd) (timerTick_frame _)
    rcases stepWith_same_or_executes hhalt h (e := e) (by simp_all) with hsame | ⟨i, hw, hdec, -⟩
    · exact .inl ((ticked e (by simp_all)).trans hsame)
    · exact .inr ⟨i, hw, hdec⟩

/-- A live step latches its inputs and no instruction writes them. -/
theorem stepWith_live_inputs {s t : State} {now : Nat} {rnd : Byte} (hlive : s.halt = false)
    (h : stepWith now rnd s = .next t) : t.nowIn = now ∧ t.rndIn = rnd ∧ t.stepNo = s.stepNo + 1 := by
  rcases stepWith_same_or_executes hlive h (e := .inputs) (by simp) with hsame | ⟨i, hw, -⟩
  · exact hsame
  · exact absurd hw (not_writes_host_elem i).2.2

/-! ### The invariant of reachable states (10_state.md R29) -/

theorem inv_resetAt (now : Nat) : Inv (State.resetAt now) :=
  ⟨State.wf_resetAt now, Nat.zero_le _, by simp [State.resetAt], by simp [CauseMatchesValue, State.resetAt],
    by simp [State.resetAt], Nat.le_refl now⟩

/-- Phase 1 with a `now` not before the latest one: a tick moves `LAST_TICK` to `now` at most. -/
theorem inv_ticked {s : State} {now : Nat} (rnd : Byte) (hs : Inv s) (hnow : s.nowIn ≤ now) :
    Inv (s.latchInputs now rnd).timerTick := by
  obtain ⟨hmem, hkey, hcause, hval, hexcl, htick⟩ := hs
  refine ⟨hmem, hkey, hcause, hval, hexcl, ?_⟩
  rw [State.timerTick_lastTick, State.timerTick_nowIn, State.latchInputs_nowIn, State.latchInputs_lastTick]
  split
  · exact Nat.le_refl now
  · exact htick.trans hnow

/-- Phase 2: waking writes a register and clears `WAIT`. -/
theorem inv_stallCheck {s : State} (hs : Inv s) : Inv s.stallCheck := by
  rcases s.stallCheck_cases with ⟨-, hsame⟩ | ⟨-, hwake⟩
  · rwa [hsame]
  · obtain ⟨hmem, hkey, hcause, hval, -, htick⟩ := hs
    rw [hwake]
    exact ⟨hmem, hkey, hcause, hval, by simp, htick⟩

theorem condition_code_ne_zero (c : Condition) : c.code ≠ 0 := by
  cases c <;> decide

/-- Raising a condition with a value that fits it, in a core that is not waiting. -/
theorem inv_raise {s : State} {c : Condition} {op : Word} (hs : Inv s) (hwait : s.wait = false)
    (hfits : CauseMatchesValue c.code op) : Inv (s.raise c op) := by
  obtain ⟨hmem, hkey, -, -, -, htick⟩ := hs
  exact ⟨hmem, hkey, iff_of_true (condition_code_ne_zero c) rfl, hfits, by simp [hwait], htick⟩

/-- Phase 6: an instruction raises, or leaves the status registers of a core that is not halted. -/
theorem inv_exec {i : Instr} {s t : State} (hs : Inv s) (hrun : Running s) (h : exec i s = .next t) : Inv t := by
  rcases exec_raises_or_keeps_status h with ⟨c, op, hfits, rfl⟩ | ⟨hhalt, hfcause, hfval⟩
  · exact inv_raise hs hrun.2 hfits
  · obtain ⟨hmem, hkey, hcause, hval, -, htick⟩ := hs
    obtain ⟨notKey, notTick, notInputs⟩ := not_writes_host_elem i
    have frame := exec_frame h
    have sameKey : t.key = s.key := frame .key notKey
    have sameTick : t.lastTick = s.lastTick := frame .lastTick notTick
    have sameNow : t.nowIn = s.nowIn := (frame .inputs notInputs).1
    refine ⟨exec_keeps_mem_wf h hmem, by rwa [sameKey], by rwa [hfcause, hhalt], by rwa [hfcause, hfval], ?_, ?_⟩
    · simp [hhalt, hrun.1]
    · rwa [sameTick, sameNow]

/-- A step with a `now` not before the latest one keeps the invariant, in each of its four ways to end. -/
theorem inv_stepWith {s t : State} {now : Nat} {rnd : Byte} (hs : Inv s) (hnow : s.nowIn ≤ now)
    (h : stepWith now rnd s = .next t) : Inv t := by
  have ticked := inv_ticked rnd hs hnow
  have advanced : Inv (s.latchInputs now rnd).timerTick.advancePc := ticked
  rcases stepWith_next_cases h with ⟨-, rfl⟩ | ⟨-, -, rfl⟩ | ⟨hrun, i, -, hexec⟩ | ⟨hrun, hdec, rfl⟩
  · exact hs
  · exact inv_stallCheck ticked
  · exact inv_exec advanced hrun hexec
  · exact inv_raise advanced hrun.2 (unsupportedOpcode_fits hdec)

/-- The core's own `now` never passes the host's latest one. -/
theorem stepWith_nowIn_le {s t : State} {now : Nat} {rnd : Byte} (hnow : s.nowIn ≤ now)
    (h : stepWith now rnd s = .next t) : t.nowIn ≤ now := by
  cases hhalt : s.halt with
  | true => rwa [stepWith_halted hhalt h]
  | false => exact (stepWith_live_inputs hhalt h).1.le

theorem loadImage_wf (font : Vector Byte 80) (words : List Word) : (loadImage font words).wf = true :=
  Memory.wf_writeBytes _ _ _ (Memory.wf_writeBytes _ _ _ Memory.wf_nil)

theorem inv_setKey {s : State} {k : Byte} (hs : Inv s) (hk : k.toNat ≤ 0x0F) : Inv (s.setKey k) := by
  obtain ⟨hmem, -, rest⟩ := hs
  exact ⟨hmem, hk, rest⟩

/-- A load replaces memory by a canonical image, or is rejected; it leaves the core's own `now`. -/
theorem inv_loadProgram {s : State} (words : List Word) (hs : Inv s) :
    Inv (s.loadProgram words).1 ∧ (s.loadProgram words).1.nowIn = s.nowIn := by
  unfold State.loadProgram State.loadProgramWith
  split
  · obtain ⟨-, rest⟩ := hs
    exact ⟨⟨loadImage_wf _ words, rest⟩, rfl⟩
  · exact ⟨hs, rfl⟩

/-- Settles O16: `step` is the step whose `now` is the latest one plus what the host lets pass. -/
theorem invKeptByStep : Obligations.InvKeptByStep := fun s _ hs h => inv_stepWith hs (Nat.le_add_right s.nowIn _) h

/-- Settles O59, operation by operation. -/
theorem invKeptByHostOperations : Obligations.InvKeptByHostOperations := by
  unfold Obligations.InvKeptByHostOperations
  intro op latest s t hs hlatest duty h
  cases op with
  | coldReset now =>
    obtain rfl := Host.Outcome.next.inj h
    exact ⟨inv_resetAt now, Nat.le_refl now⟩
  | loadProgram words =>
    obtain rfl := Host.Outcome.next.inj h
    obtain ⟨hinv, hnow⟩ := inv_loadProgram words hs
    exact ⟨hinv, hnow.trans_le hlatest⟩
  | step now rnd =>
    have hnow : s.nowIn ≤ now := hlatest.trans (of_decide_eq_true duty)
    exact ⟨inv_stepWith hs hnow h, stepWith_nowIn_le hnow h⟩
  | setKey k =>
    obtain rfl := Host.Outcome.next.inj h
    have := k.isLt
    exact ⟨inv_setKey hs (by simp; omega), hlatest⟩
  | clearKey =>
    obtain rfl := Host.Outcome.next.inj h
    exact ⟨inv_setKey hs (by decide), hlatest⟩

/-- Settles O17. -/
theorem invAtReset : Obligations.InvAtReset := ⟨inv_resetAt 0, inv_resetAt⟩

/-- Settles O18, by induction on how the state was reached. -/
theorem invHoldsInEveryReachableState : Obligations.InvHoldsInEveryReachableState := by
  unfold Obligations.InvHoldsInEveryReachableState
  intro latest s reached
  induction reached with
  | created now => exact ⟨inv_resetAt now, Nat.le_refl now⟩
  | next op _ duty done ih => exact invKeptByHostOperations op _ _ _ ih.1 ih.2 duty done

/-! ### What changes registers, timers, display, memory, latch and inputs -/

/-- Settles O13. -/
theorem instructionsWriteOnlyTheirElements : Obligations.InstructionsWriteOnlyTheirElements := fun _ _ _ h =>
  exec_frame h

theorem eq_of_getV_setV_ne {s : State} {x r : Nibble} {b : Byte} (h : (s.setV x b).getV r ≠ s.getV r) : r = x := by
  by_contra hne
  exact h (State.getV_setV_other s x r b hne)

/-- A flag write and then a register write change VF and the register only. -/
theorem eq_of_getV_setFlag_setV_ne {s : State} {x r : Nibble} {f b : Byte}
    (h : ((s.setFlag f).setV x b).getV r ≠ s.getV r) : r = x ∨ r = 15 := by
  by_contra! hne
  exact h ((State.getV_setV_other _ x r b hne.1).trans (State.getV_setV_other s 15 r f hne.2))

theorem lt_of_getV_loadBlock_ne {s : State} {k : Nat} {r : Nibble} (hk : k ≤ 16)
    (h : (s.loadBlock k).getV r ≠ s.getV r) : r.toNat < k := by
  by_contra hge
  exact h (by rw [State.getV_loadBlock s k hk, if_neg hge])

/-- Settles O14: an instruction whose frame spares `V` changes no register; the others write one register, VF and one
register, VF alone, or the block. -/
theorem registersChangeOnlyByDestinationOrFlag : Obligations.RegistersChangeOnlyByDestinationOrFlag := by
  unfold Obligations.RegistersChangeOnlyByDestinationOrFlag
  intro i s t r h hne
  cases i with
  | ldk _ _ | addk _ _ | mov _ _ | or _ _ | and _ _ | xor _ _ | shr _ _ | shl _ _ | rnd _ _ | getdt _ =>
    obtain rfl := Host.Outcome.next.inj h
    exact .inl (congrArg some (eq_of_getV_setV_ne hne).symm)
  | add _ _ | sub _ _ | subn _ _ =>
    obtain rfl := Host.Outcome.next.inj h
    rcases eq_of_getV_setFlag_setV_ne hne with rfl | hflag
    · exact .inl rfl
    · exact .inr (.inl ⟨hflag, rfl⟩)
  | drw _ _ _ =>
    obtain rfl := Host.Outcome.next.inj h
    exact .inr (.inl ⟨eq_of_getV_setV_ne hne, rfl⟩)
  | load x =>
    obtain rfl := Host.Outcome.next.inj h
    exact .inr (.inr ⟨x, rfl, Nat.le_of_lt_succ (lt_of_getV_loadBlock_ne x.isLt hne)⟩)
  | _ => exact absurd (exec_frame h .v (by simp [writes]) r) hne

/-- A timer through a tick opportunity: as it was, or one less (10_state.md R16). -/
theorem same_or_one_less_of_countDown {due : Bool} {old new : Byte} (h : new = countDown due old) :
    new = old ∨ new.toNat + 1 = old.toNat := by
  subst h
  cases due with
  | false => exact .inl (countDown_not_due old)
  | true =>
    have hdown := countDown_due old
    by_cases hzero : old.toNat = 0
    · exact .inl (BitVec.eq_of_toNat_eq (by omega))
    · exact .inr (by omega)

/-- Settles O21: a live step leaves a timer as the tick left it, or executes the timer's own instruction. -/
theorem timersChangeOnlyByTickOrWrite : Obligations.TimersChangeOnlyByTickOrWrite := by
  unfold Obligations.TimersChangeOnlyByTickOrWrite
  intro s t now rnd h
  cases hhalt : s.halt with
  | true =>
    obtain rfl := stepWith_halted hhalt h
    exact ⟨.inl rfl, .inl rfl⟩
  | false =>
    constructor
    · rcases stepWith_same_or_executes hhalt h (e := .dt) (by simp) with hsame | ⟨i, hw, hdec, hexec⟩
      · exact (same_or_one_less_of_countDown hsame).imp_right .inl
      · obtain ⟨x, rfl⟩ := eq_setdt_of_writes_dt hw
        obtain rfl := Host.Outcome.next.inj hexec
        exact .inr (.inr ⟨x, hdec, rfl⟩)
    · rcases stepWith_same_or_executes hhalt h (e := .st) (by simp) with hsame | ⟨i, hw, hdec, hexec⟩
      · exact (same_or_one_less_of_countDown hsame).imp_right .inl
      · obtain ⟨x, rfl⟩ := eq_setst_of_writes_st hw
        obtain rfl := Host.Outcome.next.inj hexec
        exact .inr (.inr ⟨x, hdec, rfl⟩)

/-- Settles O23: a changed element is one that the executed instruction may write. -/
theorem displayAndMemoryHaveTheirOwnWriters : Obligations.DisplayAndMemoryHaveTheirOwnWriters := by
  unfold Obligations.DisplayAndMemoryHaveTheirOwnWriters
  intro s t now rnd h
  constructor
  · intro hne
    rcases stepWith_same_or_decodes h (e := .disp) (by simp) with hsame | ⟨i, hw, hdec⟩
    · exact absurd hsame hne
    · rw [hdec]
      rcases eq_cls_or_drw_of_writes_disp hw with rfl | ⟨x, y, n, rfl⟩
      · exact .inl rfl
      · exact .inr ⟨x, y, n, rfl⟩
  · intro a hne
    rcases stepWith_same_or_decodes h (e := .mem) (by simp) with hsame | ⟨i, hw, hdec⟩
    · exact absurd (hsame a) hne
    · obtain ⟨x, hi⟩ := eq_bcd_or_store_of_writes_mem hw
      exact ⟨x, hi.imp (fun hbcd => by rw [hdec, hbcd]) (fun hstore => by rw [hdec, hstore])⟩

/-- Settles O24: no instruction writes the latch, and no other phase of a step does. -/
theorem keyLatchIsTheHostsAlone : Obligations.KeyLatchIsTheHostsAlone := by
  unfold Obligations.KeyLatchIsTheHostsAlone
  intro s t now rnd h
  rcases stepWith_same_or_decodes h (e := .key) (by simp) with hsame | ⟨i, hw, -⟩
  · exact hsame
  · exact absurd hw (not_writes_host_elem i).1

/-- Settles O60. -/
theorem inputsAreLatchedByEveryLiveStep : Obligations.InputsAreLatchedByEveryLiveStep := by
  unfold Obligations.InputsAreLatchedByEveryLiveStep
  intro s t now rnd h
  constructor
  · exact fun hlive => stepWith_live_inputs hlive h
  · intro hhalt
    obtain rfl := stepWith_halted hhalt h
    exact ⟨rfl, rfl, rfl⟩

/-! ### What `load_program` leaves (70_reset_and_hazards.md R232) -/

theorem wordsToBytes_length (words : List Word) : (wordsToBytes words).length = 2 * words.length := by
  simp [wordsToBytes, List.length_flatMap, Nat.mul_comm]

theorem wordsToBytes_cons (w : Word) (words : List Word) :
    wordsToBytes (w :: words) = highByte w :: lowByte w :: wordsToBytes words := rfl

/-- Word `j` of a program as bytes `2j` and `2j + 1` of its image, high byte first. -/
theorem wordsToBytes_getElem? (words : List Word) (j : Nat) (hj : j < words.length) :
    (wordsToBytes words)[2 * j]? = some (highByte words[j]) ∧
    (wordsToBytes words)[2 * j + 1]? = some (lowByte words[j]) := by
  induction words generalizing j with
  | nil => simp at hj
  | cons w words ih =>
    rw [wordsToBytes_cons]
    cases j with
    | zero => exact ⟨rfl, rfl⟩
    | succ j => exact ih j (by simpa using hj)

section Image

variable {font : Vector Byte 80} {words : List Word}

/-- The font lies below the program. -/
theorem loadImage_font (fits : 0x200 + 2 * words.length ≤ 4096) (a : Nat) (ha : a < 80) :
    (loadImage font words).read a = font[a] := by
  have inFont := Memory.read_writeBytes_inside [] font.toList 0 a (by simpa using ha) (by simp [Config.memSize])
  rw [loadImage, Memory.read_writeBytes_outside]
  · simpa [Config.memSize, Nat.mod_eq_of_lt (show a < 4096 by omega)] using inFont
  · intro k hk
    rw [wordsToBytes_length] at hk
    simp only [Config.progBase, Config.memSize]
    omega

theorem loadImage_program (fits : 0x200 + 2 * words.length ≤ 4096) (k : Nat) (hk : k < (wordsToBytes words).length) :
    (loadImage font words).read (0x200 + k) = (wordsToBytes words)[k] := by
  have hlen := wordsToBytes_length words
  have inProgram := Memory.read_writeBytes_inside (Memory.writeBytes [] 0 font.toList) (wordsToBytes words)
    Config.progBase k hk (by simp only [Config.memSize]; omega)
  rwa [Nat.mod_eq_of_lt (by simp only [Config.progBase, Config.memSize]; omega)] at inProgram

theorem loadImage_elsewhere (fits : 0x200 + 2 * words.length ≤ 4096) (a : Nat) (hfont : 80 ≤ a)
    (hprog : a < 0x200 ∨ 0x200 + 2 * words.length ≤ a) : (loadImage font words).read a = 0 := by
  rw [loadImage, Memory.read_writeBytes_outside, Memory.read_writeBytes_outside, Memory.read_nil]
  · intro k hk
    rw [Vector.length_toList] at hk
    simp only [Config.memSize]
    omega
  · intro k hk
    rw [wordsToBytes_length] at hk
    simp only [Config.progBase, Config.memSize]
    omega

end Image

/-- Replacing memory and `PC` leaves every other element. -/
theorem replaced_mem_pc_frame (s : State) (m : Memory) (w : Word) :
    FrameExcept [.mem, .pc] s { s with mem := m, pc := w } := by
  intro e he
  cases e with
  | mem | pc => simp at he
  | v => exact fun _ => rfl
  | inputs => exact ⟨rfl, rfl, rfl⟩
  | _ => rfl

/-- An accepted load. -/
theorem loadProgramWith_fits {font : Vector Byte 80} {words : List Word} (s : State)
    (fits : 0x200 + 2 * words.length ≤ 4096) :
    s.loadProgramWith font words = ({ s with mem := loadImage font words, pc := 0x200 }, .ok) :=
  if_pos (decide_eq_true fits)

/-- Settles O28: the bytes of the load's image, area by area. -/
theorem loadProgramLaysOutMemory : Obligations.LoadProgramLaysOutMemory := by
  unfold Obligations.LoadProgramLaysOutMemory
  intro font words s fits
  rw [loadProgramWith_fits s fits]
  have byteAt_image {a : Nat} (ha : a < 4096) :
      State.byteAt { s with mem := loadImage font words, pc := 0x200 } a = (loadImage font words).read a :=
    congrArg _ (Nat.mod_eq_of_lt ha)
  refine ⟨rfl, fun a ha => ?_, fun j hj => ?_, fun a ha hfont hprog => ?_, rfl, replaced_mem_pc_frame s _ _, rfl⟩
  · exact (byteAt_image (by omega)).trans (loadImage_font fits a ha)
  · have hlen := wordsToBytes_length words
    obtain ⟨hhigh, hlow⟩ := wordsToBytes_getElem? words j hj
    obtain ⟨_, hhigh⟩ := List.getElem?_eq_some_iff.1 hhigh
    obtain ⟨_, hlow⟩ := List.getElem?_eq_some_iff.1 hlow
    constructor
    · rw [← hhigh]
      exact (byteAt_image (by omega)).trans (loadImage_program fits (2 * j) _)
    · rw [← hlow]
      exact (byteAt_image (by omega)).trans (loadImage_program fits (2 * j + 1) _)
  · exact (byteAt_image ha).trans (loadImage_elsewhere fits a hfont hprog)

end Sys2Proof.Proofs

/-! PROOFS. The memory family: addresses modulo 4096, and what a fetch reads after a store and after a load
(20_memory.md R44, R46, R53). -/

namespace Sys2Proof.Proofs

open Sys2Proof.Machine

/-! ### Addresses modulo 4096 (20_memory.md R46) -/

theorem byteAt_congr (s : State) {a c : Nat} (h : a % 4096 = c % 4096) : s.byteAt a = s.byteAt c :=
  congrArg s.mem.read h

/-- `MemWrite` reduces each address of its range on its own, so equal first addresses stay equal along the bytes. -/
theorem writeBytes_congr (m : Memory) (bytes : List Byte) {a c : Nat} (h : a % 4096 = c % 4096) :
    m.writeBytes a bytes = m.writeBytes c bytes := by
  induction bytes generalizing m a c with
  | nil => rfl
  | cons b bs ih =>
    have hcell : a % Config.memSize = c % Config.memSize := h
    rw [Memory.writeBytes, Memory.writeBytes, hcell]
    exact ih _ (by omega)

theorem memWrite_congr (s : State) (bytes : List Byte) {a c : Nat} (h : a % 4096 = c % 4096) :
    s.memWrite a bytes = s.memWrite c bytes :=
  congrArg (fun m => { s with mem := m }) (writeBytes_congr s.mem bytes h)

/-- Settles O25: the address plus 4096, and the address reduced, are the address modulo 4096. -/
theorem memoryAddressesWrap : Obligations.MemoryAddressesWrap := by
  unfold Obligations.MemoryAddressesWrap
  intro s a bytes
  have shifted : (a + 4096) % 4096 = a % 4096 := Nat.add_mod_right a 4096
  have reduced : a % 4096 = a % 4096 % 4096 := (Nat.mod_mod a 4096).symm
  exact ⟨byteAt_congr s shifted, memWrite_congr s bytes shifted, memWrite_congr s bytes reduced⟩

/-! ### What a fetch reads -/

/-- A fetch gives the two bytes that memory holds at `PC` and after it (40_step_cycle.md R84). -/
theorem fetchWord_of_bytes {s : State} {hi lo : Byte} (hhi : s.byteAt s.pc.toNat = hi)
    (hlo : s.byteAt (s.pc.toNat + 1) = lo) : s.fetchWord = wordOfBytes hi lo :=
  congrArg₂ wordOfBytes hhi hlo

/-- After `Fx55` the cell `k` above `I` holds register `k` (43_index_memory.md R145). -/
theorem byteAt_of_exec_store {x : Nibble} {s t : State} {k a : Nat} (h : exec (.store x) s = .next t)
    (hk : k ≤ x.toNat) (ha : a % 4096 = (s.dataBase + k) % 4096) : t.byteAt a = s.getV (BitVec.ofNat 4 k) := by
  obtain rfl := Host.Outcome.next.inj h
  have hlen := s.regBlock_length (x.toNat + 1)
  rw [s.byteAt_memWrite_inside _ s.dataBase a k (by omega) (by omega) ha, State.regBlock_getElem]

theorem exec_store_pc {x : Nibble} {s t : State} (h : exec (.store x) s = .next t) : t.pc = s.pc := by
  obtain rfl := Host.Outcome.next.inj h
  rfl

/-- Settles O22: the store leaves `PC`, and both bytes of the opcode lie in the stored block. -/
theorem storeIsSeenByTheNextFetch : Obligations.StoreIsSeenByTheNextFetch := by
  unfold Obligations.StoreIsSeenByTheNextFetch
  intro s t x k h hk hpc
  have samePc := exec_store_pc h
  apply fetchWord_of_bytes
  · exact byteAt_of_exec_store h (by omega) (by rw [samePc, hpc])
  · exact byteAt_of_exec_store h hk (by rw [samePc]; omega)

/-- Settles O30: the load left the word's two bytes where the fetch looks, high byte first. -/
theorem loadedWordIsFetchedBack : Obligations.LoadedWordIsFetchedBack := by
  unfold Obligations.LoadedWordIsFetchedBack
  intro words s j hj fits
  obtain ⟨-, -, program, -⟩ := loadProgramLaysOutMemory Config.font words s fits
  obtain ⟨hhi, hlo⟩ := program j hj
  have hpc : (BitVec.ofNat 16 (0x200 + 2 * j)).toNat = 0x200 + 2 * j := Nat.mod_eq_of_lt (by omega)
  calc ((s.loadProgram words).1.setPc (BitVec.ofNat 16 (0x200 + 2 * j))).fetchWord
      = wordOfBytes (highByte words[j]) (lowByte words[j]) := by
        apply fetchWord_of_bytes
        · rw [State.setPc_byteAt, State.setPc_pc, hpc]
          exact hhi
        · rw [State.setPc_byteAt, State.setPc_pc, hpc]
          exact hlo
    _ = words[j] := wordOfBytes_high_low words[j]

end Sys2Proof.Proofs

/-! PROOFS. The encoding family: `decodeWord` and `encode` are inverse to each other, and both agree with the opcode
table (30_encoding.md R60 to R75). -/

namespace Sys2Proof.Proofs

/-! ### A word from its family and what its format fixes (R62) -/

theorem encA_of_fam {f : Nibble} {op : Word} (h : fieldFam op = f) : encA f (fieldNNN op) = op := by
  rw [← h, encA_fields]

theorem encXK_of_fam {f : Nibble} {op : Word} (h : fieldFam op = f) : encXK f (fieldX op) (fieldKK op) = op := by
  rw [← h, encXK_fields]

theorem encXYN_of_fam {f : Nibble} {op : Word} (h : fieldFam op = f) :
    encXYN f (fieldX op) (fieldY op) (fieldN op) = op := by
  rw [← h, encXYN_fields]

theorem encXK_of_fam_kk {f : Nibble} {kk : Byte} {op : Word} (hfam : fieldFam op = f) (hkk : fieldKK op = kk) :
    encXK f (fieldX op) kk = op := by
  rw [← hkk, encXK_of_fam hfam]

theorem encXYN_of_fam_n {f n : Nibble} {op : Word} (hfam : fieldFam op = f) (hn : fieldN op = n) :
    encXYN f (fieldX op) (fieldY op) n = op := by
  rw [← hn, encXYN_of_fam hfam]

/-! A row's value is the word of its format with every free operand 0 (R75): a word that selects the row differs from
it in those operands only. -/

theorem encA_of_F000 {f : Nibble} {op : Word} (h : op &&& 0xF000 = encA f 0) : encA f (fieldNNN op) = op :=
  encA_of_fam ((fieldFam_of_F000 h).trans (fieldFam_encA f 0))

theorem encXK_of_F000 {f : Nibble} {op : Word} (h : op &&& 0xF000 = encXK f 0 0) :
    encXK f (fieldX op) (fieldKK op) = op :=
  encXK_of_fam ((fieldFam_of_F000 h).trans (fieldFam_encXK f 0 0))

theorem encXYN_of_F000 {f : Nibble} {op : Word} (h : op &&& 0xF000 = encXYN f 0 0 0) :
    encXYN f (fieldX op) (fieldY op) (fieldN op) = op :=
  encXYN_of_fam ((fieldFam_of_F000 h).trans (fieldFam_encXYN f 0 0 0))

theorem encXK_of_F0FF {f : Nibble} {kk : Byte} {op : Word} (h : op &&& 0xF0FF = encXK f 0 kk) :
    encXK f (fieldX op) kk = op := by
  obtain ⟨hfam, hkk⟩ := fieldFam_fieldKK_of_F0FF h
  exact encXK_of_fam_kk (hfam.trans (fieldFam_encXK f 0 kk)) (hkk.trans (fieldKK_encXK f 0 kk))

theorem encXYN_of_F00F {f n : Nibble} {op : Word} (h : op &&& 0xF00F = encXYN f 0 0 n) :
    encXYN f (fieldX op) (fieldY op) n = op := by
  obtain ⟨hfam, hn⟩ := fieldFam_fieldN_of_F00F h
  exact encXYN_of_fam_n (hfam.trans (fieldFam_encXYN f 0 0 n)) (hn.trans (fieldN_encXYN f 0 0 n))

theorem eq_of_FFFF {op v : Word} (h : op &&& 0xFFFF = v) : v = op := h.symm.trans (BitVec.and_allOnes (x := op))

/-! ### Decoding an encoded word -/

/-- The fields the decoder reads from an instruction's word are its operands, and the sub-opcode selects its arm. -/
theorem decodeWord_encode (i : Instr) : decodeWord (encode i) = some i := by
  cases i with
  | cls | ret => rfl
  | jp | call | ldi | jpv0 => simp [encode, decodeWord, fieldFam_encA, fieldNNN_encA]
  | sek | snek | ldk | addk | rnd => simp [encode, decodeWord, fieldFam_encXK, fieldX_encXK, fieldKK_encXK]
  | ser | sner =>
    simp [encode, decodeWord, decodeSkipReg, fieldFam_encXYN, fieldX_encXYN, fieldY_encXYN, fieldN_encXYN]
  | mov | or | and | xor | add | sub | shr | subn | shl =>
    simp [encode, decodeWord, decodeFam8, fieldFam_encXYN, fieldX_encXYN, fieldY_encXYN, fieldN_encXYN]
  | drw => simp [encode, decodeWord, fieldFam_encXYN, fieldX_encXYN, fieldY_encXYN, fieldN_encXYN]
  | skp | sknp => simp [encode, decodeWord, decodeFamE, fieldFam_encXK, fieldX_encXK, fieldKK_encXK]
  | getdt | waitk | setdt | setst | addi | font | bcd | store | load =>
    simp [encode, decodeWord, decodeFamF, fieldFam_encXK, fieldX_encXK, fieldKK_encXK]

/-- Settles O2: the two bytes of a word give the word back, high byte first. -/
theorem decodeOfEncodeIsTheInstruction : Obligations.DecodeOfEncodeIsTheInstruction := by
  unfold Obligations.DecodeOfEncodeIsTheInstruction
  intro i
  refine ⟨decodeWord_encode i, fun rest => ?_⟩
  simp only [encodeBytes, List.cons_append, List.nil_append, decodeBytes, wordOfBytes_high_low, decodeWord_encode]

/-! ### Encoding a decoded word -/

theorem encode_of_decodeFam0 {op : Word} {i : Instr} (h : decodeFam0 op = some i) : encode i = op := by
  unfold decodeFam0 at h
  split_ifs at h with hcls hret
  · obtain rfl := Option.some.inj h
    exact hcls.symm
  · obtain rfl := Option.some.inj h
    exact hret.symm

theorem fieldN_of_decodeSkipReg {op : Word} {i j : Instr} (h : decodeSkipReg j op = some i) :
    fieldN op = 0 ∧ j = i := by
  unfold decodeSkipReg at h
  split_ifs at h with hn
  exact ⟨hn, Option.some.inj h⟩

/-! In families 8, E and F the arm that decoded the word gives its sub-opcode (R66, R68, R69). -/

theorem encode_of_decodeFam8 {op : Word} {i : Instr} (hfam : fieldFam op = 0x8) (h : decodeFam8 op = some i) :
    encode i = op := by
  unfold decodeFam8 at h
  split at h <;> cases h <;> exact encXYN_of_fam_n hfam (BitVec.eq_of_toNat_eq ‹_›)

theorem encode_of_decodeFamE {op : Word} {i : Instr} (hfam : fieldFam op = 0xE) (h : decodeFamE op = some i) :
    encode i = op := by
  unfold decodeFamE at h
  split at h <;> cases h <;> exact encXK_of_fam_kk hfam (BitVec.eq_of_toNat_eq ‹_›)

theorem encode_of_decodeFamF {op : Word} {i : Instr} (hfam : fieldFam op = 0xF) (h : decodeFamF op = some i) :
    encode i = op := by
  unfold decodeFamF at h
  split at h <;> cases h <;> exact encXK_of_fam_kk hfam (BitVec.eq_of_toNat_eq ‹_›)

/-- Family by family (case `h_k` is the decoder's arm `k`, for family `k - 1`): the arm that decoded the word names the
family, and the instruction holds every other field. -/
theorem encode_of_decodeWord {op : Word} {i : Instr} (h : decodeWord op = some i) : encode i = op := by
  have family {f : Nibble} (hf : (fieldFam op).toNat = f.toNat) : fieldFam op = f := BitVec.eq_of_toNat_eq hf
  unfold decodeWord at h
  split at h
  case h_1 => exact encode_of_decodeFam0 h
  case h_6 hf | h_10 hf =>
    obtain ⟨hn, rfl⟩ := fieldN_of_decodeSkipReg h
    exact encXYN_of_fam_n (family hf) hn
  case h_9 hf => exact encode_of_decodeFam8 (family hf) h
  case h_15 hf => exact encode_of_decodeFamE (family hf) h
  case h_16 hf => exact encode_of_decodeFamF (family hf) h
  case h_2 hf | h_3 hf | h_11 hf | h_12 hf => cases h; exact encA_of_fam (family hf)
  case h_4 hf | h_5 hf | h_7 hf | h_8 hf | h_13 hf => cases h; exact encXK_of_fam (family hf)
  case h_14 hf => cases h; exact encXYN_of_fam (family hf)
  case h_17 => cases h

/-- Settles O3. -/
theorem encodeOfDecodeIsTheWord : Obligations.EncodeOfDecodeIsTheWord := fun _ _ h => encode_of_decodeWord h

/-- The decoder is the inverse of the encoder. -/
theorem decodeWord_eq_some_iff {op : Word} {i : Instr} : decodeWord op = some i ↔ encode i = op :=
  ⟨encode_of_decodeWord, fun h => h ▸ decodeWord_encode i⟩

/-! ### The opcode table (R75) -/

open Laws.RowMatch in
/-- The instruction's own row is in the table, and its word selects it. -/
theorem rowMatch : ∀ i : Instr, Statement i
  | .cls => cls
  | .ret => ret
  | .jp nnn => jp nnn
  | .call nnn => call nnn
  | .sek x kk => sek x kk
  | .snek x kk => snek x kk
  | .ser x y => ser x y
  | .ldk x kk => ldk x kk
  | .addk x kk => addk x kk
  | .mov x y => mov x y
  | .or x y => or x y
  | .and x y => and x y
  | .xor x y => xor x y
  | .add x y => add x y
  | .sub x y => sub x y
  | .shr x y => shr x y
  | .subn x y => subn x y
  | .shl x y => shl x y
  | .sner x y => sner x y
  | .ldi nnn => ldi nnn
  | .jpv0 nnn => jpv0 nnn
  | .rnd x kk => rnd x kk
  | .drw x y n => drw x y n
  | .skp x => skp x
  | .sknp x => sknp x
  | .getdt x => getdt x
  | .waitk x => waitk x
  | .setdt x => setdt x
  | .setst x => setst x
  | .addi x => addi x
  | .font x => font x
  | .bcd x => bcd x
  | .store x => store x
  | .load x => load x

theorem encode_selects (i : Instr) : encode i &&& (opcodeRow i).mask = (opcodeRow i).value :=
  let ⟨_, selects, _⟩ := rowMatch i
  eq_of_beq selects

theorem opcodeRow_mem (i : Instr) : opcodeRow i ∈ opcodeRows :=
  let ⟨_, _, mem⟩ := rowMatch i
  mem

/-- A word that selects a row of the table is the word of the row's instruction, with the operands read off the word. -/
theorem exists_encode_of_selects {r : OpcodeRow} {op : Word} (hr : r ∈ opcodeRows) (h : op &&& r.mask = r.value) :
    ∃ i : Instr, opcodeRow i = r ∧ encode i = op := by
  simp only [opcodeRows, List.mem_append, List.mem_cons, List.not_mem_nil, or_false] at hr
  rcases hr with ((hr | hr) | hr) | hr
  · rcases hr with rfl | rfl | rfl | rfl | rfl | rfl | rfl | rfl | rfl
    · exact ⟨.cls, rfl, eq_of_FFFF h⟩
    · exact ⟨.ret, rfl, eq_of_FFFF h⟩
    · exact ⟨.jp _, rfl, encA_of_F000 h⟩
    · exact ⟨.call _, rfl, encA_of_F000 h⟩
    · exact ⟨.sek _ _, rfl, encXK_of_F000 h⟩
    · exact ⟨.snek _ _, rfl, encXK_of_F000 h⟩
    · exact ⟨.ser _ _, rfl, encXYN_of_F00F h⟩
    · exact ⟨.ldk _ _, rfl, encXK_of_F000 h⟩
    · exact ⟨.addk _ _, rfl, encXK_of_F000 h⟩
  · rcases hr with rfl | rfl | rfl | rfl | rfl | rfl | rfl | rfl | rfl
    · exact ⟨.mov _ _, rfl, encXYN_of_F00F h⟩
    · exact ⟨.or _ _, rfl, encXYN_of_F00F h⟩
    · exact ⟨.and _ _, rfl, encXYN_of_F00F h⟩
    · exact ⟨.xor _ _, rfl, encXYN_of_F00F h⟩
    · exact ⟨.add _ _, rfl, encXYN_of_F00F h⟩
    · exact ⟨.sub _ _, rfl, encXYN_of_F00F h⟩
    · exact ⟨.shr _ _, rfl, encXYN_of_F00F h⟩
    · exact ⟨.subn _ _, rfl, encXYN_of_F00F h⟩
    · exact ⟨.shl _ _, rfl, encXYN_of_F00F h⟩
  · rcases hr with rfl | rfl | rfl | rfl | rfl | rfl | rfl
    · exact ⟨.sner _ _, rfl, encXYN_of_F00F h⟩
    · exact ⟨.ldi _, rfl, encA_of_F000 h⟩
    · exact ⟨.jpv0 _, rfl, encA_of_F000 h⟩
    · exact ⟨.rnd _ _, rfl, encXK_of_F000 h⟩
    · exact ⟨.drw _ _ _, rfl, encXYN_of_F000 h⟩
    · exact ⟨.skp _, rfl, encXK_of_F0FF h⟩
    · exact ⟨.sknp _, rfl, encXK_of_F0FF h⟩
  · rcases hr with rfl | rfl | rfl | rfl | rfl | rfl | rfl | rfl | rfl
    · exact ⟨.getdt _, rfl, encXK_of_F0FF h⟩
    · exact ⟨.waitk _, rfl, encXK_of_F0FF h⟩
    · exact ⟨.setdt _, rfl, encXK_of_F0FF h⟩
    · exact ⟨.setst _, rfl, encXK_of_F0FF h⟩
    · exact ⟨.addi _, rfl, encXK_of_F0FF h⟩
    · exact ⟨.font _, rfl, encXK_of_F0FF h⟩
    · exact ⟨.bcd _, rfl, encXK_of_F0FF h⟩
    · exact ⟨.store _, rfl, encXK_of_F0FF h⟩
    · exact ⟨.load _, rfl, encXK_of_F0FF h⟩

/-- Settles O4: a decoded word is its instruction's word, which selects the instruction's row; a selected row has an
instruction that the word decodes to. -/
theorem unsupportedWordsMatchNoRow : Obligations.UnsupportedWordsMatchNoRow := by
  unfold Obligations.UnsupportedWordsMatchNoRow
  intro op
  have selects (i : Instr) (h : decodeWord op = some i) : op &&& (opcodeRow i).mask = (opcodeRow i).value :=
    encode_of_decodeWord h ▸ encode_selects i
  refine ⟨⟨fun hnone r hr h => ?_, fun hrows => ?_⟩, selects⟩
  · obtain ⟨i, -, henc⟩ := exists_encode_of_selects hr h
    rw [decodeWord_eq_some_iff.2 henc] at hnone
    cases hnone
  · rw [Option.eq_none_iff_forall_ne_some]
    exact fun i h => hrows _ (opcodeRow_mem i) (selects i h)

theorem encode_injective : Function.Injective encode := fun i j h =>
  Option.some.inj (by rw [← decodeWord_encode i, h, decodeWord_encode])

/-- Settles O5: two selected rows are the rows of instructions with the same word. -/
theorem opcodeRowsDoNotOverlap : Obligations.OpcodeRowsDoNotOverlap := by
  unfold Obligations.OpcodeRowsDoNotOverlap
  intro op r q hr hq hselr hselq
  obtain ⟨i, rfl, hi⟩ := exists_encode_of_selects hr hselr
  obtain ⟨j, rfl, hj⟩ := exists_encode_of_selects hq hselq
  exact congrArg opcodeRow (encode_injective (hi.trans hj.symm))

/-- Settles O1. -/
theorem decodeReadsTheSpecWords : Obligations.DecodeReadsTheSpecWords := by
  unfold Obligations.DecodeReadsTheSpecWords
  decide

end Sys2Proof.Proofs

/-! PROOFS. The step family: what a step does in each of its phases, which events halt the core, the wait for a key, and
where the inputs of a step matter (40_step_cycle.md R80 to R93). -/

namespace Sys2Proof.Proofs

open Sys2Proof.Machine Sys2Proof.Safety

/-! ### The step by its case (40_step_cycle.md R91) -/

theorem dispatch_of_some {op : Word} {i : Instr} (h : decodeWord op = some i) (s : State) :
    dispatch op s = exec i s := by
  simp only [dispatch, h]

theorem dispatch_of_none {op : Word} (h : decodeWord op = none) (s : State) :
    dispatch op s = .next (s.raise .unsupportedOpcode op) := by
  simp only [dispatch, h]

theorem stepWith_of_halted {s : State} (h : s.halt = true) (now : Nat) (rnd : Byte) : stepWith now rnd s = .next s :=
  if_pos h

theorem stepWith_of_stalled {s : State} (hlive : s.halt = false) (hwait : s.wait = true) (now : Nat) (rnd : Byte) :
    stepWith now rnd s = .next (s.latchInputs now rnd).timerTick.stallCheck := by
  rcases stepWith_cases now rnd s with ⟨hhalt, -⟩ | ⟨-, -, hstep⟩ | ⟨-, hrun, -⟩
  · simp [hlive] at hhalt
  · exact hstep
  · simp [hwait] at hrun

theorem stepWith_of_decoded {s : State} {i : Instr} (hrun : Running s) (h : decodeWord s.fetchWord = some i)
    (now : Nat) (rnd : Byte) : stepWith now rnd s = exec i (s.latchInputs now rnd).timerTick.advancePc :=
  (stepWith_running hrun now rnd).trans (dispatch_of_some h _)

theorem stepWith_of_unsupported {s : State} (hrun : Running s) (h : decodeWord s.fetchWord = none) (now : Nat)
    (rnd : Byte) : stepWith now rnd s =
      .next ((s.latchInputs now rnd).timerTick.advancePc.raise .unsupportedOpcode s.fetchWord) :=
  (stepWith_running hrun now rnd).trans (dispatch_of_none h _)

/-- Settles O6. -/
theorem stepRunsTheDecodedInstruction : Obligations.StepRunsTheDecodedInstruction := fun s _ hrun h =>
  ⟨stepWith_of_decoded hrun h s.nextNow s.nextRnd, stepWith_of_decoded hrun h⟩

/-- Settles O10. -/
theorem unsupportedWordHaltsTheCore : Obligations.UnsupportedWordHaltsTheCore := fun _ now rnd hrun h =>
  ⟨_, stepWith_of_unsupported hrun h now rnd, rfl, rfl, rfl, rfl, raise_frame _ _ _⟩

/-! ### Phase 0: the halt gate (R81) -/

theorem run_of_halted {s : State} (h : s.halt = true) (k : Nat) : Host.Core.run Sys2Proof.core k s = .next s := by
  induction k with
  | zero => rfl
  | succ k ih => exact (run_after_step k (stepWith_of_halted h s.nextNow s.nextRnd)).trans ih

/-- A load writes memory and `PC` at most (70_reset_and_hazards.md R232, R233). -/
theorem loadProgram_frame (s : State) (words : List Word) : FrameExcept [.mem, .pc] s (s.loadProgram words).1 := by
  unfold State.loadProgram State.loadProgramWith
  split
  · exact replaced_mem_pc_frame s _ _
  · exact frame_refl _ s

/-- Settles O7. -/
theorem haltedCoreIsAFixedPoint : Obligations.HaltedCoreIsAFixedPoint := by
  unfold Obligations.HaltedCoreIsAFixedPoint
  intro s hhalt
  refine ⟨stepWith_of_halted hhalt, run_of_halted hhalt, ?_, fun now => ⟨_, rfl, rfl⟩⟩
  intro op t h notReset
  cases op with
  | coldReset now => exact absurd rfl (notReset now)
  | loadProgram words =>
    obtain rfl := Host.Outcome.next.inj h
    have same : (s.loadProgram words).1.halt = s.halt := loadProgram_frame s words .halt (by simp)
    exact same.trans hhalt
  | step now rnd => rwa [stepWith_halted hhalt h]
  | setKey _ | clearKey =>
    obtain rfl := Host.Outcome.next.inj h
    exact hhalt

/-! ### Phase 2: the stall check (R83) -/

theorem stallCheck_of_no_key {s : State} (h : s.key = 0) : s.stallCheck = s := if_pos h

theorem stallCheck_of_key {s : State} (h : s.key ≠ 0) : s.stallCheck = (s.setV s.waitX s.key).setWait false := if_neg h

/-- Settles O8. -/
theorem stalledStepWaitsOrWakes : Obligations.StalledStepWaitsOrWakes := by
  unfold Obligations.StalledStepWaitsOrWakes
  intro s now rnd hlive hwait
  rw [stepWith_of_stalled hlive hwait]
  have sameKey : (s.latchInputs now rnd).timerTick.key = s.key := rfl
  refine ⟨fun hkey => ⟨_, rfl, ?_⟩, fun hkey => ⟨_, rfl, ?_⟩⟩
  · rw [stallCheck_of_no_key (sameKey.trans hkey)]
    exact frame_refl _ _
  · have woken := stallCheck_frame (s.latchInputs now rnd).timerTick
    rw [stallCheck_of_key (sameKey ▸ hkey)] at woken ⊢
    exact ⟨State.getV_setV_same _ _ _, ⟨hlive, rfl⟩, rfl, setV_regs _ _ _, woken⟩

/-! ### Phase 3: the fetch (R84) -/

theorem wordOfBytes_toNat (hi lo : Byte) : (wordOfBytes hi lo).toNat = 256 * hi.toNat + lo.toNat := by
  rw [wordOfBytes, BitVec.toNat_append, ← Nat.shiftLeft_add_eq_or_of_lt lo.isLt, Nat.shiftLeft_eq]
  omega

/-- Settles O26. -/
theorem fetchIsBigEndian : Obligations.FetchIsBigEndian := fun _ => wordOfBytes_toNat _ _

/-! ### What halts the core (60_exceptions.md R190) -/

theorem exec_ret_of_empty {s : State} (h : s.sp.val = 0) :
    exec .ret s = .next (s.raise .callStackUnderflow (encode .ret)) := by
  change execRet s = _
  rw [execRet, (State.pop_eq_none s).2 h]

theorem exec_call_of_full {s : State} (nnn : Addr) (h : s.sp.val = 16) :
    exec (.call nnn) s = .next (s.raise .callStackOverflow (encode (.call nnn))) := by
  change execCall nnn s = _
  rw [execCall, (State.push_eq_none s s.pc).2 h]

/-- Away from the two ends of the stack no instruction touches `HALT`. -/
theorem exec_keeps_halt {i : Instr} {s t : State} (h : exec i s = .next t) (hret : i = .ret → s.sp.val ≠ 0)
    (hcall : ∀ nnn : Addr, i = .call nnn → s.sp.val ≠ 16) : t.halt = s.halt := by
  cases i with
  | ret =>
    rcases exec_ret_cases h with ⟨w, u, hpop, rfl⟩ | ⟨hpop, -⟩
    · exact pop_frame hpop .halt (by simp)
    · exact absurd ((State.pop_eq_none s).1 hpop) (hret rfl)
  | call nnn =>
    rcases exec_call_cases h with ⟨u, hpush, rfl⟩ | ⟨hpush, -⟩
    · exact push_frame hpush .halt (by simp)
    · exact absurd ((State.push_eq_none s s.pc).1 hpush) (hcall nnn rfl)
  | _ => exact exec_frame h .halt (by simp [writes])

/-- A step that raises a condition reports its cause and its opcode (R89). -/
theorem stepReport_raise {s : State} (h : s.halt = false) (u : State) (c : Condition) (op : Word) :
    stepReport s (u.raise c op) = .fatal c.code op := by
  simp [stepReport, h]

theorem stepReport_of_live {t : State} (h : t.halt = false) (s : State) : stepReport s t = .ok := by
  simp [stepReport, h]

/-- Settles O11: the two instructions that can raise do so at their end of the stack only. -/
theorem onlyThreeEventsHalt : Obligations.OnlyThreeEventsHalt := by
  unfold Obligations.OnlyThreeEventsHalt
  intro s t now rnd hrun h
  refine ⟨fun hdec => ?_, fun hdec hempty => ?_, fun nnn hdec hfull => ?_, fun hsome hret hcall => ?_⟩
  · have raised := stepWith_of_unsupported hrun hdec now rnd
    obtain rfl := Host.Outcome.next.inj (h.symm.trans raised)
    exact ⟨rfl, stepReport_raise hrun.1 _ _ _⟩
  · have raised := (stepWith_of_decoded hrun hdec now rnd).trans (exec_ret_of_empty hempty)
    obtain rfl := Host.Outcome.next.inj (h.symm.trans raised)
    exact ⟨rfl, stepReport_raise hrun.1 _ _ _⟩
  · have raised := (stepWith_of_decoded hrun hdec now rnd).trans (exec_call_of_full nnn hfull)
    rw [encode_of_decodeWord hdec] at raised
    obtain rfl := Host.Outcome.next.inj (h.symm.trans raised)
    exact ⟨rfl, stepReport_raise hrun.1 _ _ _⟩
  · obtain ⟨i, hdec⟩ := Option.ne_none_iff_exists'.1 hsome
    rw [stepWith_of_decoded hrun hdec] at h
    have same := exec_keeps_halt h (fun hi => hret (hi ▸ hdec)) (fun nnn hi => hcall nnn (hi ▸ hdec))
    have live : t.halt = false := same.trans hrun.1
    exact ⟨live, stepReport_of_live live s⟩

/-! ### The wait for a key (R90) -/

/-- Only `Fx0A` enters the wait. -/
theorem exec_wait_iff {i : Instr} {s t : State} (hwait : s.wait = false) (h : exec i s = .next t) :
    t.wait = true ↔ ∃ x : Nibble, i = .waitk x := by
  cases i with
  | waitk x =>
    obtain rfl := Host.Outcome.next.inj h
    exact iff_of_true rfl ⟨x, rfl⟩
  | _ =>
    have same : t.wait = s.wait := exec_frame h .wait (by simp [writes])
    simp [same, hwait]

theorem stepWith_wait_iff {s t : State} {now : Nat} {rnd : Byte} (hrun : Running s) (h : stepWith now rnd s = .next t) :
    t.wait = true ↔ ∃ x : Nibble, decodeWord s.fetchWord = some (.waitk x) := by
  cases hdec : decodeWord s.fetchWord with
  | none =>
    rw [stepWith_of_unsupported hrun hdec] at h
    obtain rfl := Host.Outcome.next.inj h
    simp [hrun.2]
  | some i =>
    rw [stepWith_of_decoded hrun hdec] at h
    simpa using exec_wait_iff (s := (s.latchInputs now rnd).timerTick.advancePc) hrun.2 h

/-- A step of a waiting core ends the wait exactly when a key is latched. -/
theorem stallCheck_wait_iff {s : State} (hwait : s.wait = true) : s.stallCheck.wait = false ↔ s.key ≠ 0 := by
  rcases s.stallCheck_cases with ⟨hkey, hsame⟩ | ⟨hkey, hwake⟩
  · simp [hsame, hkey, hwait]
  · exact iff_of_true (by rw [hwake, State.setWait_wait]) hkey

/-- Settles O20, transition by transition of R90's table. -/
theorem waitFlagStateMachine : Obligations.WaitFlagStateMachine := by
  unfold Obligations.WaitFlagStateMachine
  refine ⟨fun s t now rnd hrun h => ⟨stepWith_wait_iff hrun h, fun x hdec => ?_⟩, fun s t now rnd hlive hwait h => ?_,
    fun s t op h => ⟨?_, ?_⟩⟩
  · rw [stepWith_of_decoded hrun hdec] at h
    obtain rfl := Host.Outcome.next.inj h
    exact ⟨rfl, rfl⟩
  · rw [stepWith_of_stalled hlive hwait] at h
    obtain rfl := Host.Outcome.next.inj h
    exact stallCheck_wait_iff (s := (s.latchInputs now rnd).timerTick) hwait
  · rintro now rfl
    obtain rfl := Host.Outcome.next.inj h
    rfl
  · rintro (⟨words, rfl⟩ | ⟨k, rfl⟩ | rfl) <;> obtain rfl := Host.Outcome.next.inj h
    · have frame := loadProgram_frame s words
      exact ⟨frame .wait (by simp), frame .waitX (by simp)⟩
    · exact ⟨rfl, rfl⟩
    · exact ⟨rfl, rfl⟩

/-! ### The idle loop (R93) -/

/-- Phases 1 to 5 leave what is neither an input, a timer, `LAST_TICK` nor `PC`. -/
theorem advanced_frame (s : State) (now : Nat) (rnd : Byte) :
    FrameExcept [.inputs, .dt, .st, .lastTick, .pc] s (s.latchInputs now rnd).timerTick.advancePc :=
  frame_trans (frame_trans (latchInputs_frame s now rnd) (timerTick_frame _)) (advancePc_frame _)

theorem zextAddr_eq_of_toNat {nnn : Addr} {w : Word} (h : w.toNat = nnn.toNat) : zextAddr nnn = w := by
  have := nnn.isLt
  apply BitVec.eq_of_toNat_eq
  simp only [zextAddr, BitVec.toNat_setWidth]
  omega

theorem running_of_frame {es : List Elem} {s t : State} (hrun : Running s) (frame : FrameExcept es s t)
    (hhalt : .halt ∉ es) (hwait : .wait ∉ es) : Running t :=
  ⟨Eq.trans (frame .halt hhalt) hrun.1, Eq.trans (frame .wait hwait) hrun.2⟩

/-- One turn of the loop: the jump puts `PC` back where it was. -/
theorem step_of_jump_to_itself {s : State} {nnn : Addr} (hrun : Running s)
    (hdec : decodeWord s.fetchWord = some (.jp nnn)) (hpc : s.pc.toNat = nnn.toNat) :
    ∃ t : State, step s = .next t ∧ FrameExcept [.dt, .st, .lastTick, .inputs] s t := by
  refine ⟨_, stepWith_of_decoded hrun hdec s.nextNow s.nextRnd, fun e he => ?_⟩
  by_cases hep : e = .pc
  · subst hep
    exact zextAddr_eq_of_toNat hpc
  · exact frame_trans (advanced_frame s _ _) (setPc_frame _ (zextAddr nnn)) e (by simp_all)

/-- Settles O19, by induction on the number of steps: after each turn the core is ready, at the same address, before the
same word. -/
theorem idleLoopStaysPut : Obligations.IdleLoopStaysPut := by
  unfold Obligations.IdleLoopStaysPut
  intro s nnn k
  induction k generalizing s with
  | zero => exact fun _ _ _ => ⟨s, rfl, frame_refl _ s⟩
  | succ k ih =>
    intro hrun hdec hpc
    obtain ⟨t, hstep, turn⟩ := step_of_jump_to_itself hrun hdec hpc
    have samePc : t.pc = s.pc := turn .pc (by simp)
    have sameWord : t.fetchWord = s.fetchWord := fetchWord_congr samePc (turn .mem (by simp))
    have running : Running t := running_of_frame hrun turn (by simp) (by simp)
    obtain ⟨u, hrest, rest⟩ := ih t running (sameWord ▸ hdec) (samePc ▸ hpc)
    exact ⟨u, (run_after_step k hstep).trans hrest, frame_weaken (frame_trans turn rest) (by simp)⟩

/-! ### Where the inputs matter (R92) -/

/-- `s` with `LAST_TICK` and the latched inputs of `u`: where two steps with the same tick decision may differ. -/
def withInputsOf (s u : State) : State :=
  { s with lastTick := u.lastTick, nowIn := u.nowIn, rndIn := u.rndIn, stepNo := u.stepNo }

theorem withInputsOf_frame (s u : State) : FrameExcept [.lastTick, .inputs] s (withInputsOf s u) := by
  intro e he
  cases e with
  | lastTick | inputs => simp at he
  | mem | v => exact fun _ => rfl
  | _ => rfl

/-- Two ticks with the same decision leave the same state but for `LAST_TICK` and the inputs. -/
theorem ticked_eq_withInputsOf {s : State} {now now' : Nat} (rnd rnd' : Byte)
    (due : s.lastTick + 16 ≤ now ↔ s.lastTick + 16 ≤ now') :
    (s.latchInputs now' rnd').timerTick =
      withInputsOf (s.latchInputs now rnd).timerTick (s.latchInputs now' rnd').timerTick := by
  have sameDue : (s.latchInputs now' rnd').tickDue = (s.latchInputs now rnd).tickDue := by
    refine decide_eq_decide.2 ?_
    simp only [State.latchInputs_nowIn, State.latchInputs_lastTick, Config.tickMs]
    omega
  simp only [State.timerTick, sameDue]
  rfl

theorem stallCheck_withInputsOf (s u : State) : (withInputsOf s u).stallCheck = withInputsOf s.stallCheck u := by
  by_cases h : s.key = 0
  · rw [stallCheck_of_no_key h]
    exact stallCheck_of_no_key h
  · rw [stallCheck_of_key h]
    exact stallCheck_of_key h

theorem pop_withInputsOf (s u : State) :
    (withInputsOf s u).pop = s.pop.map fun p => (p.1, withInputsOf p.2 u) := by
  by_cases h : 0 < s.sp.val <;> simp [State.pop, withInputsOf, h]

theorem push_withInputsOf (s u : State) (w : Word) :
    (withInputsOf s u).push w = (s.push w).map (withInputsOf · u) := by
  by_cases h : s.sp.val < 16 <;> simp [State.push, withInputsOf, h]

theorem loadBlock_withInputsOf (s u : State) (k : Nat) :
    (withInputsOf s u).loadBlock k = withInputsOf (s.loadBlock k) u := by
  induction k with
  | zero => rfl
  | succ k ih =>
    rw [State.loadBlock, ih]
    rfl

/-- Every instruction but `Cxkk` acts alike whatever `LAST_TICK` and the latched inputs are. -/
theorem exec_withInputsOf {i : Instr} {s t : State} (u : State) (notRnd : ∀ (x : Nibble) (kk : Byte), i ≠ .rnd x kk)
    (h : exec i s = .next t) : exec i (withInputsOf s u) = .next (withInputsOf t u) := by
  cases i with
  | rnd x kk => exact absurd rfl (notRnd x kk)
  | ret =>
    change execRet (withInputsOf s u) = _
    rw [execRet, pop_withInputsOf]
    rcases exec_ret_cases h with ⟨w, v, hpop, rfl⟩ | ⟨hpop, rfl⟩ <;> rw [hpop] <;> rfl
  | call nnn =>
    change execCall nnn (withInputsOf s u) = _
    rw [execCall, push_withInputsOf, show (withInputsOf s u).pc = s.pc from rfl]
    rcases exec_call_cases h with ⟨v, hpush, rfl⟩ | ⟨hpush, rfl⟩ <;> rw [hpush] <;> rfl
  | load x =>
    obtain rfl := Host.Outcome.next.inj h
    exact congrArg Host.Outcome.next (loadBlock_withInputsOf s u _)
  | _ =>
    obtain rfl := Host.Outcome.next.inj h
    rfl

/-- Two steps with the same tick decision that execute no `Cxkk` end alike but for `LAST_TICK` and the inputs. -/
theorem stepWith_alike {s t u : State} {now now' : Nat} {rnd rnd' : Byte}
    (due : s.lastTick + 16 ≤ now ↔ s.lastTick + 16 ≤ now')
    (notRnd : Running s → ∀ (x : Nibble) (kk : Byte), decodeWord s.fetchWord ≠ some (.rnd x kk))
    (ht : stepWith now rnd s = .next t) (hu : stepWith now' rnd' s = .next u) :
    FrameExcept [.lastTick, .inputs] t u := by
  have ticked := ticked_eq_withInputsOf rnd rnd' due
  suffices t = u ∨ u = withInputsOf t (s.latchInputs now' rnd').timerTick by
    rcases this with rfl | rfl
    · exact frame_refl _ t
    · exact withInputsOf_frame t _
  rcases stepWith_next_cases ht with ⟨hhalt, rfl⟩ | ⟨hlive, hwait, rfl⟩ | ⟨hrun, i, hdec, hexec⟩ | ⟨hrun, hdec, rfl⟩
  · exact .inl (stepWith_halted hhalt hu).symm
  · rw [stepWith_of_stalled hlive hwait, ticked, stallCheck_withInputsOf] at hu
    exact .inr (Host.Outcome.next.inj hu).symm
  · rw [stepWith_of_decoded hrun hdec, ticked] at hu
    have alike := exec_withInputsOf (s.latchInputs now' rnd').timerTick
      (fun x kk hi => notRnd hrun x kk (hi ▸ hdec)) hexec
    exact .inr (Host.Outcome.next.inj (hu.symm.trans alike))
  · rw [stepWith_of_unsupported hrun hdec, ticked] at hu
    exact .inr (Host.Outcome.next.inj hu).symm

/-- A `Cxkk` step leaves the state of phase 5 with `rnd & kk` in `V[x]` (42_alu.md R133). -/
theorem stepWith_of_rnd {s t : State} {now : Nat} {rnd : Byte} {x : Nibble} {kk : Byte} (hrun : Running s)
    (hdec : decodeWord s.fetchWord = some (.rnd x kk)) (h : stepWith now rnd s = .next t) :
    t = (s.latchInputs now rnd).timerTick.advancePc.setV x (rnd &&& kk) := by
  rw [stepWith_of_decoded hrun hdec] at h
  exact (Host.Outcome.next.inj h).symm

/-- Two `Cxkk` steps with the same tick decision: `V[x]` takes what `rnd` gives it, the rest is alike. -/
theorem stepWith_rnd_alike {s t u : State} {now now' : Nat} {rnd rnd' : Byte} {x : Nibble} {kk : Byte}
    (due : s.lastTick + 16 ≤ now ↔ s.lastTick + 16 ≤ now') (hrun : Running s)
    (hdec : decodeWord s.fetchWord = some (.rnd x kk))
    (ht : stepWith now rnd s = .next t) (hu : stepWith now' rnd' s = .next u) :
    RegsExcept [x] t u ∧ FrameExcept [.v, .lastTick, .inputs] t u ∧ (rnd = rnd' → u.getV x = t.getV x) := by
  obtain rfl := stepWith_of_rnd hrun hdec ht
  obtain rfl := stepWith_of_rnd hrun hdec hu
  refine ⟨fun r hr => ?_, fun e he => ?_, fun hrnd => ?_⟩
  · exact (setV_regs _ x _ r hr).trans (setV_regs (s.latchInputs now rnd).timerTick.advancePc x _ r hr).symm
  · have before := (setV_frame (s.latchInputs now rnd).timerTick.advancePc x (rnd &&& kk) e (by simp_all)).symm
    have after := frame_trans (withInputsOf_frame (s.latchInputs now rnd).timerTick.advancePc
      (s.latchInputs now' rnd').timerTick) (setV_frame _ x (rnd' &&& kk)) e (by simp_all)
    rw [ticked_eq_withInputsOf rnd rnd' due]
    exact before.trans after
  · rw [State.getV_setV_same, State.getV_setV_same, hrnd]

/-- `LAST_TICK` after a live step is what the tick left. -/
theorem stepWith_live_lastTick {s t : State} {now : Nat} {rnd : Byte} (hlive : s.halt = false)
    (h : stepWith now rnd s = .next t) : t.lastTick = (s.latchInputs now rnd).timerTick.lastTick := by
  rcases stepWith_same_or_executes hlive h (e := .lastTick) (by simp) with hsame | ⟨i, hw, -⟩
  · exact hsame
  · exact absurd hw (not_writes_host_elem i).2.1

theorem stepWith_lastTick_of_same_now {s t u : State} {now : Nat} {rnd rnd' : Byte}
    (ht : stepWith now rnd s = .next t) (hu : stepWith now rnd' s = .next u) : u.lastTick = t.lastTick := by
  cases hhalt : s.halt with
  | true => rw [stepWith_halted hhalt ht, stepWith_halted hhalt hu]
  | false => exact (stepWith_live_lastTick hhalt hu).trans (stepWith_live_lastTick hhalt ht).symm

/-- Settles O15: a core that is not ready executes nothing, so a `Cxkk` before it changes nothing. -/
theorem inputsMatterOnlyThroughTickAndRnd : Obligations.InputsMatterOnlyThroughTickAndRnd := by
  unfold Obligations.InputsMatterOnlyThroughTickAndRnd
  intro s t u now now' rnd rnd' _ _ due ht hu
  refine ⟨fun notRnd => stepWith_alike due notRnd ht hu, fun x kk hdec => ?_, ?_⟩
  · by_cases hrun : Running s
    · exact stepWith_rnd_alike due hrun hdec ht hu
    · have alike := stepWith_alike due (fun ready => absurd ready hrun) ht hu
      have sameRegs : ∀ r : Nibble, u.getV r = t.getV r := alike .v (by simp)
      exact ⟨fun r _ => sameRegs r, frame_weaken alike (by simp), fun _ => sameRegs x⟩
  · rintro rfl
    exact stepWith_lastTick_of_same_now ht hu

end Sys2Proof.Proofs

/-! PROOFS. The flow family: return, call, the two jumps and the skips (41_flow.md R100 to R109). -/

namespace Sys2Proof.Proofs

open Sys2Proof.Machine Sys2Proof.Safety

/-! ### Encodings -/

/-- A word that the instruction built from its fields encodes to decodes to that instruction. -/
theorem encodedAs_of_encode {mask value : Word} {build : Word → Instr}
    (h : ∀ op : Word, op &&& mask = value → encode (build op) = op) : EncodedAs mask value build :=
  fun op hop => decodeWord_eq_some_iff.2 (h op hop)

theorem encA_toNat (f : Nibble) (nnn : Addr) : (encA f nnn).toNat = 4096 * f.toNat + nnn.toNat := by
  rw [encA, BitVec.toNat_append, ← Nat.shiftLeft_add_eq_or_of_lt nnn.isLt, Nat.shiftLeft_eq, Nat.mul_comm]

theorem encXYN_and_000F (f x y n : Nibble) : encXYN f x y n &&& 0x000F = encXYN 0 0 0 n := by
  apply BitVec.eq_of_getLsbD_eq
  intro i hi
  rw [and_bit, encXYN_bit, encXYN_bit]
  interval_cases i <;> simp

theorem and_000F_of_fieldN {op : Word} (h : fieldN op = 0) : op &&& 0x000F = 0 := by
  rw [← encXYN_fields op, encXYN_and_000F, h]
  rfl

theorem decodeSkipReg_of_ne {op : Word} (h : fieldN op ≠ 0) (i : Instr) : decodeSkipReg i op = none := if_neg h

/-- The register skips need a zero low nibble (30_encoding.md R67). -/
theorem decodeWord_skipReg_of_ne {op : Word} (hfam : op &&& 0xF000 = 0x5000 ∨ op &&& 0xF000 = 0x9000)
    (hn : fieldN op ≠ 0) : decodeWord op = none := by
  rcases hfam with hfam | hfam
  · have fam : fieldFam op = 0x5 := fieldFam_of_F000 hfam
    simp [decodeWord, fam, decodeSkipReg_of_ne hn]
  · have fam : fieldFam op = 0x9 := fieldFam_of_F000 hfam
    simp [decodeWord, fam, decodeSkipReg_of_ne hn]

/-! ### Jumps (R102, R104) -/

theorem zextAddr_toNat (nnn : Addr) : (zextAddr nnn).toNat = nnn.toNat :=
  BitVec.toNat_setWidth_of_le (by decide)

theorem zextByte_toNat (b : Byte) : (zextByte b).toNat = b.toNat :=
  BitVec.toNat_setWidth_of_le (by decide)

/-- The sum of an address and a byte fits 16 bits. -/
theorem zextAddr_add_zextByte_toNat (nnn : Addr) (b : Byte) :
    (zextAddr nnn + zextByte b).toNat = nnn.toNat + b.toNat := by
  have := nnn.isLt
  have := b.isLt
  rw [BitVec.toNat_add, zextAddr_toNat, zextByte_toNat]
  omega

/-- Settles O36. -/
theorem jumpSetsPc : Obligations.JumpSetsPc :=
  ⟨encodedAs_of_encode fun _ h => encA_of_F000 h,
    fun nnn s => ⟨_, rfl, zextAddr_toNat nnn, setPc_frame s (zextAddr nnn)⟩⟩

/-- Settles O39. -/
theorem jumpWithOffsetAddsV0 : Obligations.JumpWithOffsetAddsV0 :=
  ⟨encodedAs_of_encode fun _ h => encA_of_F000 h,
    fun nnn s => ⟨_, rfl, zextAddr_add_zextByte_toNat nnn (s.getV 0), setPc_frame s _⟩⟩

/-! ### Return and call (R101, R103) -/

theorem exec_ret_of_nonempty {s : State} (h : 0 < s.sp.val) :
    ∃ (w : Word) (u : State), s.pop = some (w, u) ∧ exec .ret s = .next (u.setPc w) := by
  have popped : s.pop ≠ none := fun hnone => h.ne' ((State.pop_eq_none s).1 hnone)
  obtain ⟨⟨w, u⟩, hpop⟩ := Option.ne_none_iff_exists'.1 popped
  refine ⟨w, u, hpop, ?_⟩
  change execRet s = _
  rw [execRet, hpop]

theorem exec_call_of_room {s : State} (nnn : Addr) (h : s.sp.val < 16) :
    ∃ u : State, s.push s.pc = some u ∧ exec (.call nnn) s = .next (u.setPc (zextAddr nnn)) := by
  have hpush := State.push_of_lt s s.pc h
  refine ⟨_, hpush, ?_⟩
  change execCall nnn s = _
  rw [execCall, hpush]

/-- Settles O35: a pop and a jump, or the underflow. -/
theorem returnPopsOrHalts : Obligations.ReturnPopsOrHalts := by
  unfold Obligations.ReturnPopsOrHalts
  refine ⟨encodedAs_of_encode fun _ h => eq_of_FFFF h, fun s hpos => ?_, fun s hempty => ?_⟩
  · obtain ⟨w, u, hpop, hexec⟩ := exec_ret_of_nonempty hpos
    have frame := frame_trans (pop_frame hpop) (setPc_frame u w)
    obtain ⟨_, -, rfl, rfl⟩ := State.pop_eq_some s u w hpop
    exact ⟨_, hexec, Nat.sub_add_cancel hpos, fun _ => rfl, frame_weaken frame (by simp)⟩
  · exact ⟨_, exec_ret_of_empty hempty, rfl, rfl, rfl, raise_frame _ _ _⟩

/-- Settles O37: a push and a jump, or the overflow. -/
theorem callPushesOrHalts : Obligations.CallPushesOrHalts := by
  unfold Obligations.CallPushesOrHalts
  refine ⟨encodedAs_of_encode fun _ h => encA_of_F000 h, fun nnn s hroom => ?_, fun nnn s hfull => ?_⟩
  · obtain ⟨u, hpush, hexec⟩ := exec_call_of_room nnn hroom
    have frame := frame_trans (push_frame hpush) (setPc_frame u (zextAddr nnn))
    obtain ⟨_, rfl⟩ := State.push_eq_some s u s.pc hpush
    refine ⟨_, hexec, zextAddr_toNat nnn, rfl, fun k hk => ?_, frame_weaken frame (by simp)⟩
    exact (Vector.getElem_set hroom hk).trans (if_congr eq_comm rfl rfl)
  · exact ⟨_, exec_call_of_full nnn hfull, rfl, rfl, encA_toNat 0x2 nnn, raise_frame _ _ _⟩

/-- Settles O38: the return pops the entry that the call pushed. -/
theorem returnUndoesCall : Obligations.ReturnUndoesCall := by
  unfold Obligations.ReturnUndoesCall
  intro nnn s t u hroom hcall hstack hsp
  obtain ⟨-, push, -⟩ := callPushesOrHalts
  obtain ⟨-, pop, -⟩ := returnPopsOrHalts
  obtain ⟨t', hexec, -, pushedSp, pushed, -⟩ := push nnn s hroom
  obtain rfl := Host.Outcome.next.inj (hcall.symm.trans hexec)
  have depth : u.sp.val = s.sp.val + 1 := by rw [hsp, pushedSp]
  obtain ⟨w, hret, poppedSp, popped, frame⟩ := pop u (by omega)
  refine ⟨w, hret, ?_, Fin.ext (by omega), frame⟩
  have top : u.sp.val - 1 = s.sp.val := by omega
  calc w.pc = u.stack[u.sp.val - 1] := popped (by omega)
    _ = t.stack[s.sp.val] := by simp only [top, hstack]
    _ = s.pc := by rw [pushed _ hroom, if_pos rfl]

/-! ### Skips (R105) -/

theorem skipIf_beq_pc_toNat (s : State) (a b : Byte) :
    (s.skipIf (a == b)).pc.toNat = (s.pc.toNat + if a.toNat = b.toNat then 2 else 0) % 65536 := by
  simp only [skipIf_pc_toNat, beq_iff_eq, BitVec.toNat_inj]

theorem skipIf_bne_pc_toNat (s : State) (a b : Byte) :
    (s.skipIf (a != b)).pc.toNat = (s.pc.toNat + if a.toNat = b.toNat then 0 else 2) % 65536 := by
  simp only [skipIf_pc_toNat, bne_iff_ne, ne_eq, ite_not, BitVec.toNat_inj]

/-- Settles O40. -/
theorem skipsOnImmediate : Obligations.SkipsOnImmediate :=
  ⟨encodedAs_of_encode fun _ h => encXK_of_F000 h, encodedAs_of_encode fun _ h => encXK_of_F000 h,
    fun x kk s => ⟨_, rfl, skipIf_beq_pc_toNat s (s.getV x) kk, skipIf_frame s _⟩,
    fun x kk s => ⟨_, rfl, skipIf_bne_pc_toNat s (s.getV x) kk, skipIf_frame s _⟩⟩

/-- Settles O41. -/
theorem skipsOnRegisters : Obligations.SkipsOnRegisters :=
  ⟨encodedAs_of_encode fun _ h => encXYN_of_F00F h, encodedAs_of_encode fun _ h => encXYN_of_F00F h,
    fun _ hfam hlow => decodeWord_skipReg_of_ne hfam fun hn => hlow (and_000F_of_fieldN hn),
    fun x y s => ⟨_, rfl, skipIf_beq_pc_toNat s (s.getV x) (s.getV y), skipIf_frame s _⟩,
    fun x y s => ⟨_, rfl, skipIf_bne_pc_toNat s (s.getV x) (s.getV y), skipIf_frame s _⟩⟩

end Sys2Proof.Proofs

/-! PROOFS. The register family: loads, arithmetic, logic, shifts and the random byte (42_alu.md R120 to R133). -/

namespace Sys2Proof.Proofs

open Sys2Proof.Machine Sys2Proof.Safety

/-! ### One register write -/

/-- The byte a register write stores, read back as a number. -/
theorem getV_setV_same_toNat {s : State} {x : Nibble} {b : Byte} {n : Nat} (h : b.toNat = n) :
    ((s.setV x b).getV x).toNat = n := by
  rw [State.getV_setV_same, h]

/-- Settles O42. -/
theorem immediateLoadAndAdd : Obligations.ImmediateLoadAndAdd :=
  ⟨encodedAs_of_encode fun _ h => encXK_of_F000 h, encodedAs_of_encode fun _ h => encXK_of_F000 h,
    fun x kk s => ⟨_, rfl, State.getV_setV_same s x kk, setV_regs s x kk, setV_frame s x kk⟩,
    fun x kk s => ⟨_, rfl, getV_setV_same_toNat (BitVec.toNat_add (s.getV x) kk), setV_regs s x _, setV_frame s x _⟩⟩

/-- A copy or a logical operation stores a byte known bit by bit. -/
theorem getV_setV_same_bit {s : State} {x : Nibble} {b : Byte} {k : Nat} {bit : Bool} (h : b.getLsbD k = bit) :
    ((s.setV x b).getV x).getLsbD k = bit := by
  rw [State.getV_setV_same, h]

/-- Settles O43. -/
theorem copyAndLogicWriteOnlyTheDestination : Obligations.CopyAndLogicWriteOnlyTheDestination :=
  ⟨encodedAs_of_encode fun _ h => encXYN_of_F00F h, encodedAs_of_encode fun _ h => encXYN_of_F00F h,
    encodedAs_of_encode fun _ h => encXYN_of_F00F h, encodedAs_of_encode fun _ h => encXYN_of_F00F h,
    fun x y s =>
      ⟨⟨_, rfl, State.getV_setV_same s x (s.getV y), setV_regs s x _, setV_frame s x _⟩,
        ⟨_, rfl, fun _ => getV_setV_same_bit BitVec.getLsbD_or, setV_regs s x _, setV_frame s x _⟩,
        ⟨_, rfl, fun _ => getV_setV_same_bit BitVec.getLsbD_and, setV_regs s x _, setV_frame s x _⟩,
        ⟨_, rfl, fun _ => getV_setV_same_bit BitVec.getLsbD_xor, setV_regs s x _, setV_frame s x _⟩⟩⟩

theorem shiftRight_one_toNat (b : Byte) : (b >>> 1).toNat = b.toNat / 2 := by
  rw [BitVec.toNat_ushiftRight, Nat.shiftRight_one]

theorem shiftLeft_one_toNat (b : Byte) : (b <<< 1).toNat = 2 * b.toNat % 256 := by
  rw [BitVec.toNat_shiftLeft, Nat.shiftLeft_eq, Nat.pow_one, Nat.mul_comm]

/-- Settles O47. -/
theorem shiftsLeaveTheFlagAlone : Obligations.ShiftsLeaveTheFlagAlone :=
  ⟨encodedAs_of_encode fun _ h => encXYN_of_F00F h, encodedAs_of_encode fun _ h => encXYN_of_F00F h,
    fun x _ s => ⟨_, rfl, getV_setV_same_toNat (shiftRight_one_toNat (s.getV x)), setV_regs s x _, setV_frame s x _⟩,
    fun x _ s => ⟨_, rfl, getV_setV_same_toNat (shiftLeft_one_toNat (s.getV x)), setV_regs s x _, setV_frame s x _⟩⟩

/-! ### A flag write and then a register write (R120, R121, R128) -/

theorem carryFlag_toNat (a b : Byte) : (carryFlag a b).toNat = if 255 < a.toNat + b.toNat then 1 else 0 := by
  by_cases h : 255 < a.toNat + b.toNat <;> simp [carryFlag, flagByte, h]

theorem greaterFlag_toNat (a b : Byte) : (greaterFlag a b).toNat = if b.toNat < a.toNat then 1 else 0 := by
  by_cases h : b.toNat < a.toNat <;> simp [greaterFlag, flagByte, h]

theorem setFlag_setV_regs (s : State) (x : Nibble) (f b : Byte) : RegsExcept [x, 15] s ((s.setFlag f).setV x b) := by
  intro r hr
  by_contra hne
  rcases eq_of_getV_setFlag_setV_ne hne with rfl | rfl <;> simp at hr

/-- The flag stays in VF unless the result overwrites it. -/
theorem getV_setFlag_setV_flag (s : State) {x : Nibble} (f b : Byte) (hx : x ≠ 15) :
    ((s.setFlag f).setV x b).getV 15 = f :=
  (State.getV_setV_other _ x 15 b hx.symm).trans (State.getV_setV_same s 15 f)

/-- Settles O44. -/
theorem addSetsCarryThenResult : Obligations.AddSetsCarryThenResult := by
  unfold Obligations.AddSetsCarryThenResult
  refine ⟨encodedAs_of_encode fun _ h => encXYN_of_F00F h, fun x y s => ⟨_, rfl, ?_, fun hx => ?_, ?_,
    exec_frame (i := .add x y) rfl⟩⟩
  · exact getV_setV_same_toNat (BitVec.toNat_add (s.getV x) (s.getV y))
  · rw [getV_setFlag_setV_flag s _ _ hx, carryFlag_toNat]
  · exact setFlag_setV_regs s x _ _

/-! ### The two subtractions (R129, R131) -/

/-- The effect both subtractions have: the flag `V[a] > V[b]`, then `V[a] - V[b]` of what the flag write left, to `V[x]`.
`8xy5` takes it at `x`, `y` and `8xy7` at `y`, `x`. -/
def subtractInto (s : State) (a b x : Nibble) : State :=
  (s.flagGreater a b).setV x ((s.flagGreater a b).getV a - (s.flagGreater a b).getV b)

theorem exec_sub (x y : Nibble) (s : State) : exec (.sub x y) s = .next (subtractInto s x y x) := rfl

theorem exec_subn (x y : Nibble) (s : State) : exec (.subn x y) s = .next (subtractInto s y x x) := rfl

theorem getV_flagGreater_flag (s : State) (a b : Nibble) :
    ((s.flagGreater a b).getV 15).toNat = if (s.getV b).toNat < (s.getV a).toNat then 1 else 0 :=
  getV_setV_same_toNat (greaterFlag_toNat (s.getV a) (s.getV b))

theorem getV_flagGreater_other (s : State) (a b : Nibble) {r : Nibble} (hr : r ≠ 15) :
    (s.flagGreater a b).getV r = s.getV r := State.getV_setV_other s 15 r _ hr

theorem subtractInto_regs (s : State) (a b x : Nibble) : RegsExcept [x, 15] s (subtractInto s a b x) :=
  setFlag_setV_regs s x _ _

theorem getV_subtractInto_flag (s : State) (a b : Nibble) {x : Nibble} (hx : x ≠ 15) :
    ((subtractInto s a b x).getV 15).toNat = if (s.getV b).toNat < (s.getV a).toNat then 1 else 0 := by
  rw [subtractInto, State.getV_setV_other _ x 15 _ hx.symm, getV_flagGreater_flag]

theorem byte_sub_toNat (a b : Byte) : (a - b).toNat = (a.toNat + 256 - b.toNat) % 256 := by
  have := b.isLt
  rw [BitVec.toNat_sub]
  omega

/-- The result is the difference of the registers after the flag write, so an operand that is VF counts as the flag. -/
theorem getV_subtractInto_result (s : State) (a b x : Nibble) :
    ((subtractInto s a b x).getV x).toNat =
      (((s.flagGreater a b).getV a).toNat + 256 - ((s.flagGreater a b).getV b).toNat) % 256 :=
  getV_setV_same_toNat (byte_sub_toNat _ _)

/-- A subtraction of VF from itself: both operands are the flag. -/
theorem getV_subtractInto_self (s : State) (a x : Nibble) : ((subtractInto s a a x).getV x).toNat = 0 := by
  rw [getV_subtractInto_result, Nat.add_sub_cancel_left]

/-- Settles O45: the four cases say which operands the flag write has replaced. -/
theorem subtractIsSequential : Obligations.SubtractIsSequential := by
  unfold Obligations.SubtractIsSequential
  refine ⟨encodedAs_of_encode fun _ h => encXYN_of_F00F h, fun x y s =>
    ⟨_, exec_sub x y s, ⟨fun hx hy => ⟨getV_subtractInto_flag s x y hx, ?_⟩, ?_,
      fun hx hy => ⟨getV_subtractInto_flag s x y hx, ?_⟩, ?_⟩, subtractInto_regs s x y x, exec_frame (exec_sub x y s)⟩⟩
  · rw [getV_subtractInto_result, getV_flagGreater_other s x y hx, getV_flagGreater_other s x y hy]
  · rintro rfl hy
    rw [getV_subtractInto_result, getV_flagGreater_flag, getV_flagGreater_other s 15 y hy]
  · subst hy
    rw [getV_subtractInto_result, getV_flagGreater_other s x 15 hx, getV_flagGreater_flag]
  · rintro rfl rfl
    exact getV_subtractInto_self s 15 15

/-- Settles O46: as for `8xy5`, with the operands exchanged. -/
theorem subtractReversedIsSequential : Obligations.SubtractReversedIsSequential := by
  unfold Obligations.SubtractReversedIsSequential
  refine ⟨encodedAs_of_encode fun _ h => encXYN_of_F00F h, fun x y s =>
    ⟨_, exec_subn x y s, ⟨fun hx hy => ⟨getV_subtractInto_flag s y x hx, ?_⟩, ?_,
      fun hx hy => ⟨getV_subtractInto_flag s y x hx, ?_⟩, ?_⟩, subtractInto_regs s y x x, exec_frame (exec_subn x y s)⟩⟩
  · rw [getV_subtractInto_result, getV_flagGreater_other s y x hx, getV_flagGreater_other s y x hy]
  · rintro rfl hy
    rw [getV_subtractInto_result, getV_flagGreater_flag, getV_flagGreater_other s y 15 hy]
  · subst hy
    rw [getV_subtractInto_result, getV_flagGreater_other s 15 x hx, getV_flagGreater_flag]
  · rintro rfl rfl
    exact getV_subtractInto_self s 15 15

/-! ### The random byte (R133) -/

/-- Phases 1 to 5 of a step change no register, so a register write after them changes that register alone. -/
theorem advanced_setV_regs (s : State) (now : Nat) (rnd : Byte) (x : Nibble) (b : Byte) :
    RegsExcept [x] s ((s.latchInputs now rnd).timerTick.advancePc.setV x b) := fun r hr =>
  (setV_regs _ x b r hr).trans (advanced_frame s now rnd .v (by simp) r)

/-- An instruction leaves `LAST_TICK` and the latched inputs alone, so the result with another `rndIn` has just the
inputs that `s` has with that `rndIn`. -/
theorem replaced_rndIn_eq_withInputsOf {i : Instr} {s t : State} (rnd : Byte) (h : exec i s = .next t) :
    { s with rndIn := rnd } = withInputsOf s { t with rndIn := rnd } := by
  obtain ⟨-, tickFree, inputsFree⟩ := not_writes_host_elem i
  have sameTick : t.lastTick = s.lastTick := exec_frame h .lastTick tickFree
  obtain ⟨sameNow, -, sameNo⟩ : t.nowIn = s.nowIn ∧ t.rndIn = s.rndIn ∧ t.stepNo = s.stepNo :=
    exec_frame h .inputs inputsFree
  simp only [withInputsOf, sameTick, sameNow, sameNo]

/-- Settles O48: the masked input at `exec` and at a step; no other instruction tells one `rndIn` from another. -/
theorem randomIsTheInputMasked : Obligations.RandomIsTheInputMasked := by
  unfold Obligations.RandomIsTheInputMasked
  refine ⟨encodedAs_of_encode fun _ h => encXK_of_F000 h, fun x kk s => ?_, fun x kk s now rnd hrun hdec => ?_,
    fun i s t rnd notRnd h => ?_⟩
  · exact ⟨_, rfl, State.getV_setV_same s x (s.rndIn &&& kk), setV_regs s x _, setV_frame s x _⟩
  · exact ⟨_, stepWith_of_decoded hrun hdec now rnd, State.getV_setV_same _ x (rnd &&& kk),
      advanced_setV_regs s now rnd x (rnd &&& kk)⟩
  · rw [replaced_rndIn_eq_withInputsOf rnd h]
    exact exec_withInputsOf _ notRnd h

end Sys2Proof.Proofs

/-! PROOFS. The index and memory family: the three writes of `I`, and the accesses of memory at `I` (43_index_memory.md
R140 to R146). -/

namespace Sys2Proof.Proofs

open Sys2Proof.Machine Sys2Proof.Safety

/-! ### Writes of `I` (R141 to R143) -/

/-- `I` plus a register wraps at 16 bits, not at the 12 of an address. -/
theorem add_zextByte_toNat (w : Word) (b : Byte) : (w + zextByte b).toNat = (w.toNat + b.toNat) % 65536 := by
  rw [BitVec.toNat_add, zextByte_toNat]

/-- Five times any byte fits 16 bits. -/
theorem glyphAddr_toNat (b : Byte) : (glyphAddr b).toNat = 5 * b.toNat := by
  have hfits : 5 * b.toNat < 65536 := by have := b.isLt; omega
  rw [glyphAddr, BitVec.toNat_mul, zextByte_toNat]
  exact Nat.mod_eq_of_lt hfits

/-- Settles O49. -/
theorem indexRegisterWrites : Obligations.IndexRegisterWrites :=
  ⟨encodedAs_of_encode fun _ h => encA_of_F000 h, encodedAs_of_encode fun _ h => encXK_of_F0FF h,
    encodedAs_of_encode fun _ h => encXK_of_F0FF h,
    fun nnn s => ⟨_, rfl, zextAddr_toNat nnn, setI_frame s _⟩,
    fun x s => ⟨_, rfl, add_zextByte_toNat s.i (s.getV x), setI_frame s _⟩,
    fun x s => ⟨_, rfl, glyphAddr_toNat (s.getV x), setI_frame s _⟩⟩

/-! ### The three digits (R144) -/

/-- Each digit fits its byte, so it is stored as it is. -/
theorem bcdDigits_map_toNat (b : Byte) :
    (bcdDigits b).map BitVec.toNat = [b.toNat / 100, b.toNat / 10 % 10, b.toNat % 10] := by
  have := b.isLt
  simp only [bcdDigits, List.map_cons, List.map_nil, BitVec.toNat_ofNat, List.cons.injEq, and_true]
  omega

/-- After `Fx33` the cell `k` above `I` holds digit `k`, hundreds first. -/
theorem byteAt_of_exec_bcd {x : Nibble} {s t : State} (h : exec (.bcd x) s = .next t) (k : Nat) (hk : k < 3) :
    (t.byteAt (s.dataBase + k)).toNat =
      [(s.getV x).toNat / 100, (s.getV x).toNat / 10 % 10, (s.getV x).toNat % 10][k] := by
  obtain rfl := Host.Outcome.next.inj h
  have stored := s.byteAt_memWrite_inside (bcdDigits (s.getV x)) s.dataBase _ k hk (by simp [bcdDigits]) rfl
  calc _ = (bcdDigits (s.getV x))[k].toNat := congrArg BitVec.toNat stored
    _ = ((bcdDigits (s.getV x)).map BitVec.toNat)[k] := (List.getElem_map BitVec.toNat).symm
    _ = _ := List.getElem_of_eq (bcdDigits_map_toNat (s.getV x)) hk

/-- Settles O50: the three written bytes are the digits, the cells outside them are spared. -/
theorem bcdStoresThreeDigits : Obligations.BcdStoresThreeDigits := by
  unfold Obligations.BcdStoresThreeDigits
  refine ⟨encodedAs_of_encode fun _ h => encXK_of_F0FF h, fun x s => ?_⟩
  have digit := byteAt_of_exec_bcd (x := x) (s := s) rfl
  exact ⟨_, rfl, digit 0 (by decide), digit 1 (by decide), digit 2 (by decide),
    s.byteAt_memWrite_outside (bcdDigits (s.getV x)) s.dataBase, memWrite_frame s _ _⟩

/-! ### The register block (R145, R146) -/

/-- `Fx55` spares every cell outside `I..I+x`. -/
theorem byteAt_of_exec_store_outside {x : Nibble} {s t : State} {a : Nat} (h : exec (.store x) s = .next t)
    (ha : ∀ k ≤ x.toNat, a % 4096 ≠ (s.dataBase + k) % 4096) : t.byteAt a = s.byteAt a := by
  obtain rfl := Host.Outcome.next.inj h
  apply State.byteAt_memWrite_outside
  rw [State.regBlock_length]
  exact fun k hk => ha k (Nat.le_of_lt_succ hk)

/-- Settles O51: a register of the block is found in its own cell. -/
theorem storeWritesTheRegisterBlock : Obligations.StoreWritesTheRegisterBlock := by
  unfold Obligations.StoreWritesTheRegisterBlock
  refine ⟨encodedAs_of_encode fun _ h => encXK_of_F0FF h, fun x s =>
    ⟨_, rfl, fun r hr => ?_, fun a ha => byteAt_of_exec_store_outside (x := x) rfl ha, memWrite_frame s _ _⟩⟩
  rw [byteAt_of_exec_store (x := x) rfl hr rfl, BitVec.ofNat_toNat, BitVec.setWidth_eq]

/-- Settles O52: the loop of `x + 1` loads fills the registers up to `x`. -/
theorem loadReadsTheRegisterBlock : Obligations.LoadReadsTheRegisterBlock := by
  unfold Obligations.LoadReadsTheRegisterBlock
  refine ⟨encodedAs_of_encode fun _ h => encXK_of_F0FF h, fun x s => ⟨_, rfl, fun r => ?_, loadBlock_frame s _⟩⟩
  exact (s.getV_loadBlock (x.toNat + 1) x.isLt r).trans (if_congr Nat.lt_succ_iff rfl rfl)

end Sys2Proof.Proofs

/-! PROOFS. The display family: the clear, what one draw does cell by cell, and the draw that takes it back
(44_display.md R160 to R162). -/

namespace Sys2Proof.Proofs

open Sys2Proof.Machine Sys2Proof.Safety

/-! ### The clear (R161) -/

/-- What the host reads of a display whose cells are all 0 (60_exceptions.md R207). -/
theorem readDisplay_of_cells_false {s : State} (h : ∀ j : Nat, s.disp.cell j = false) :
    s.readDisplay = List.replicate 2048 0 := by
  have zero : s.readDisplay = (List.range Config.dispCells).map fun _ => (0 : Byte) :=
    List.map_congr_left fun j _ => if_neg (by simp [h j])
  rw [zero, List.map_const', List.length_range]

/-- Settles O53. -/
theorem clearScreenZeroesEveryCell : Obligations.ClearScreenZeroesEveryCell :=
  ⟨encodedAs_of_encode fun _ h => eq_of_FFFF h, fun s =>
    ⟨_, rfl, Display.cell_blank, readDisplay_of_cells_false Display.cell_blank, setDisp_frame s Display.blank⟩⟩

/-! ### One draw (R162) -/

/-- The sprite that `Dxyn` draws in `s`: `n` bytes from `I` on, at column `V[x]` and row `V[y]`. -/
def drwPixels (x y n : Nibble) (s : State) : List (Nat × Bool) :=
  s.spritePixels (s.getV x).toNat (s.getV y).toNat n.toNat

/-- The cell that bit `c` of row `r` falls on, a number with no reduction. -/
def drwCell (x y : Nibble) (s : State) (r c : Nat) : Nat := spriteIndex (s.getV x).toNat (s.getV y).toNat r c

/-- Bit `c` of row `r` of the sprite at `I`. -/
def drwBit (s : State) (r c : Nat) : Bool := spriteBit (s.byteAt (s.i.toNat + r)) c

theorem mem_drwPixels (x y n : Nibble) (s : State) (p : Nat × Bool) :
    p ∈ drwPixels x y n s ↔ ∃ r < n.toNat, ∃ c < 8, p = (drwCell x y s r c, drwBit s r c) :=
  s.mem_spritePixels _ _ _ p

theorem drwPixels_distinct (x y n : Nibble) (s : State) : ((drwPixels x y n s).map Prod.fst).Nodup :=
  s.spritePixels_distinct _ _ _

theorem exec_drw (x y n : Nibble) (s : State) :
    exec (.drw x y n) s =
      .next ((s.setDisp (plotAll s.disp (drwPixels x y n s)).1).setFlag
        (flagByte (plotAll s.disp (drwPixels x y n s)).2)) := rfl

theorem exec_drw_disp {x y n : Nibble} {s t : State} (h : exec (.drw x y n) s = .next t) :
    t.disp = (plotAll s.disp (drwPixels x y n s)).1 := by
  obtain rfl := Host.Outcome.next.inj ((exec_drw x y n s).symm.trans h)
  rfl

theorem exec_drw_flag {x y n : Nibble} {s t : State} (h : exec (.drw x y n) s = .next t) :
    t.getV 15 = flagByte (plotAll s.disp (drwPixels x y n s)).2 := by
  obtain rfl := Host.Outcome.next.inj ((exec_drw x y n s).symm.trans h)
  exact State.getV_setV_same _ 15 _

theorem exec_drw_regs {x y n : Nibble} {s t : State} (h : exec (.drw x y n) s = .next t) : RegsExcept [15] s t := by
  obtain rfl := Host.Outcome.next.inj ((exec_drw x y n s).symm.trans h)
  exact setV_regs (s.setDisp _) 15 _

theorem flagByte_eq_one_iff (b : Bool) : flagByte b = 1 ↔ b = true := by cases b <;> decide

theorem flagByte_of_ne_true {b : Bool} (h : ¬b = true) : flagByte b = 0 := if_neg h

/-- A sprite bit that falls into the buffer is XORed into its cell. -/
theorem exec_drw_cell_inside {x y n : Nibble} {s t : State} {r c : Nat} (h : exec (.drw x y n) s = .next t)
    (hr : r < n.toNat) (hc : c < 8) (hlt : drwCell x y s r c < 2048) :
    t.disp.cell (drwCell x y s r c) = (s.disp.cell (drwCell x y s r c) ^^ drwBit s r c) := by
  rw [exec_drw_disp h]
  exact plotAll_cell_inside s.disp _ (drwCell x y s r c, drwBit s r c)
    ((mem_drwPixels x y n s _).2 ⟨r, hr, c, hc, rfl⟩) (drwPixels_distinct x y n s) hlt

/-- A cell that no sprite bit falls on keeps its value. -/
theorem exec_drw_cell_outside {x y n : Nibble} {s t : State} {j : Nat} (h : exec (.drw x y n) s = .next t)
    (hj : ∀ r < n.toNat, ∀ c < 8, drwCell x y s r c ≠ j) : t.disp.cell j = s.disp.cell j := by
  rw [exec_drw_disp h]
  refine plotAll_cell_outside s.disp _ j fun p hp => ?_
  obtain ⟨r, hr, c, hc, rfl⟩ := (mem_drwPixels x y n s p).1 hp
  exact hj r hr c hc

/-- The sprite of `s` collides on a display `d` when a set bit lies in the buffer on a cell that is 1 there. -/
theorem drwPixels_collide_iff (x y n : Nibble) (s : State) (d : Display) :
    (plotAll d (drwPixels x y n s)).2 = true ↔
      ∃ r < n.toNat, ∃ c < 8, drwCell x y s r c < 2048 ∧ drwBit s r c = true ∧ d.cell (drwCell x y s r c) = true := by
  rw [plotAll_snd d _ (drwPixels_distinct x y n s)]
  constructor
  · rintro ⟨p, hp, hit⟩
    obtain ⟨r, hr, c, hc, rfl⟩ := (mem_drwPixels x y n s p).1 hp
    exact ⟨r, hr, c, hc, hit⟩
  · rintro ⟨r, hr, c, hc, hit⟩
    exact ⟨_, (mem_drwPixels x y n s _).2 ⟨r, hr, c, hc, rfl⟩, hit⟩

/-- Settles O54: the cells and the flag of a draw, and its frame. -/
theorem drawXorsTheSprite : Obligations.DrawXorsTheSprite := by
  unfold Obligations.DrawXorsTheSprite
  refine ⟨encodedAs_of_encode fun _ h => encXYN_of_F000 h, fun x y n s => ?_⟩
  have h := exec_drw x y n s
  refine ⟨_, h, ⟨fun r hr c hc => exec_drw_cell_inside h hr hc, fun j _ => exec_drw_cell_outside h,
    fun hit => ?_, fun miss => ?_⟩, exec_drw_regs h, exec_frame h⟩
  · rw [exec_drw_flag h, flagByte_eq_one_iff]
    exact (drwPixels_collide_iff x y n s s.disp).2 hit
  · rw [exec_drw_flag h]
    refine flagByte_of_ne_true fun hit => ?_
    obtain ⟨r, hr, c, hc, hlt, hbit, hcell⟩ := (drwPixels_collide_iff x y n s s.disp).1 hit
    exact Bool.eq_false_iff.1 (miss r hr c hc hlt hbit) hcell

/-! ### The second draw (R162) -/

/-- What is drawn depends on `V[x]`, `V[y]`, `I` and memory only. -/
theorem drwPixels_congr {x y n : Nibble} {s u : State} (hx : u.getV x = s.getV x) (hy : u.getV y = s.getV y)
    (hi : u.i = s.i) (hmem : ∀ a : Nat, u.byteAt a = s.byteAt a) : drwPixels x y n u = drwPixels x y n s := by
  simp only [drwPixels, State.spritePixels, hx, hy, hi, hmem]

/-- A state left as the first draw left it, VF aside, draws the same sprite again. -/
theorem drwPixels_after_drw {x y n : Nibble} {s t u : State} (hx : x ≠ 15) (hy : y ≠ 15)
    (h : exec (.drw x y n) s = .next t) (hi : u.i = t.i) (hmem : ∀ a : Nat, u.byteAt a = t.byteAt a)
    (hregs : RegsExcept [15] t u) : drwPixels x y n u = drwPixels x y n s := by
  have same (r : Nibble) (hr : r ≠ 15) : u.getV r = s.getV r := by
    have hr : r ∉ [(15 : Nibble)] := by simpa using hr
    exact (hregs r hr).trans (exec_drw_regs h r hr)
  have sameI : t.i = s.i := exec_frame h .i (by simp [writes])
  have sameMem : ∀ a : Nat, t.byteAt a = s.byteAt a := exec_frame h .mem (by simp [writes])
  exact drwPixels_congr (same x hx) (same y hy) (hi.trans sameI) fun a => (hmem a).trans (sameMem a)

/-- The same bits XORed in twice cancel. -/
theorem plotAll_twice (d : Display) (pixels : List (Nat × Bool)) :
    (plotAll (plotAll d pixels).1 pixels).1 = d := by
  refine Display.ext_cells _ _ fun j _ => ?_
  rw [plotAll_cell, plotAll_cell, Bool.xor_assoc, Bool.xor_self, Bool.xor_false]

/-- Settles O55: the second draw takes back the first, and it collides where the first one set a cell. -/
theorem drawTwiceRestoresTheDisplay : Obligations.DrawTwiceRestoresTheDisplay := by
  unfold Obligations.DrawTwiceRestoresTheDisplay
  intro x y n s t u hx hy h hdisp hi hmem hregs
  have samePixels := drwPixels_after_drw hx hy h hi hmem hregs
  have second := exec_drw x y n u
  refine ⟨_, second, ?_, ?_⟩
  · rw [exec_drw_disp second, samePixels, hdisp, exec_drw_disp h, plotAll_twice]
  · rw [exec_drw_flag second, flagByte_eq_one_iff, samePixels, hdisp, drwPixels_collide_iff]
    refine exists_congr fun r => and_congr_right fun hr => exists_congr fun c => and_congr_right fun hc =>
      and_congr_right fun hlt => and_congr_right fun hbit => ?_
    rw [exec_drw_cell_inside h hr hc hlt, hbit, Bool.xor_true]
    exact iff_of_eq (Bool.not_eq_true' _)

end Sys2Proof.Proofs

/-! PROOFS. The keyboard and timer family: the skips on the latch, the wait for a key, and the accesses of the two timers
(45_keyboard_timers.md R170 to R176). -/

namespace Sys2Proof.Proofs

open Sys2Proof.Machine Sys2Proof.Safety

/-! ### Keyboard (R171 to R173) -/

/-- Settles O56: the two skips compare the latch with all 8 bits of the register. -/
theorem skipsOnKey : Obligations.SkipsOnKey :=
  ⟨encodedAs_of_encode fun _ h => encXK_of_F0FF h, encodedAs_of_encode fun _ h => encXK_of_F0FF h,
    fun x s => ⟨_, rfl, skipIf_beq_pc_toNat s s.key (s.getV x), skipIf_frame s _⟩,
    fun x s => ⟨_, rfl, skipIf_bne_pc_toNat s s.key (s.getV x), skipIf_frame s _⟩⟩

theorem exec_waitk (x : Nibble) (s : State) : exec (.waitk x) s = .next ((s.setWaitX x).setWait true) := rfl

/-- Settles O57: the next step is a stalled one, and its stall check still reads `x` in `WAITX`. -/
theorem waitKeyDefersTheStore : Obligations.WaitKeyDefersTheStore := by
  unfold Obligations.WaitKeyDefersTheStore
  refine ⟨encodedAs_of_encode fun _ h => encXK_of_F0FF h,
    fun x s => ⟨_, exec_waitk x s, rfl, rfl, exec_frame (exec_waitk x s)⟩, fun x s t now rnd hlive h => ?_⟩
  obtain rfl := Host.Outcome.next.inj ((exec_waitk x s).symm.trans h)
  have live : ((s.setWaitX x).setWait true).halt = false := hlive
  have sameKey : (((s.setWaitX x).setWait true).latchInputs now rnd).timerTick.key = s.key := rfl
  refine ⟨_, stepWith_of_stalled live rfl now rnd, stallCheck_frame _ .pc (by simp), fun noKey => ?_, fun hasKey => ?_⟩
  · rw [stallCheck_of_no_key (sameKey.trans noKey)]
    exact ⟨rfl, fun _ => rfl⟩
  · rw [stallCheck_of_key (sameKey.trans_ne hasKey)]
    exact ⟨rfl, State.getV_setV_same _ x s.key, setV_regs _ x s.key⟩

/-! ### Timers (R174 to R176) -/

/-- The host's sound bit (R208). -/
theorem soundActive_iff (s : State) : s.soundActive = true ↔ s.st.toNat ≠ 0 :=
  bne_iff_ne.trans (not_congr BitVec.toNat_inj.symm)

/-- Settles O58: a step executes `Fx07` on the ticked state, so that state's `DT` is what it reads. -/
theorem timerReadsAndWrites : Obligations.TimerReadsAndWrites :=
  ⟨encodedAs_of_encode fun _ h => encXK_of_F0FF h, encodedAs_of_encode fun _ h => encXK_of_F0FF h,
    encodedAs_of_encode fun _ h => encXK_of_F0FF h,
    fun x s => ⟨_, rfl, State.getV_setV_same s x s.dt, setV_regs s x s.dt, setV_frame s x s.dt⟩,
    fun x s => ⟨_, rfl, rfl, setDt_frame s (s.getV x)⟩,
    fun x s => ⟨_, rfl, rfl, soundActive_iff (s.setSt (s.getV x)), setSt_frame s (s.getV x)⟩,
    fun x _ now rnd hrun hdec => ⟨_, stepWith_of_decoded hrun hdec now rnd, State.getV_setV_same _ x _⟩⟩

end Sys2Proof.Proofs

/-! PROOFS. The exception family: the timer tick, completion of every instruction and every step, the key operations and
the host's reads (60_exceptions.md R190 to R208). -/

namespace Sys2Proof.Proofs

open Sys2Proof.Machine Sys2Proof.Safety

/-! ### Completion (R87, R196) -/

/-- The two stack instructions complete at the end of the stack too, where they raise. -/
theorem exec_completes (i : Instr) (s : State) : ∃ t : State, exec i s = .next t := by
  cases i with
  | ret =>
    rcases Nat.eq_zero_or_pos s.sp.val with hempty | hpos
    · exact ⟨_, exec_ret_of_empty hempty⟩
    · obtain ⟨w, u, -, hexec⟩ := exec_ret_of_nonempty hpos
      exact ⟨_, hexec⟩
  | call nnn =>
    rcases Nat.lt_or_eq_of_le (Nat.le_of_lt_succ s.sp.isLt) with hroom | hfull
    · obtain ⟨u, -, hexec⟩ := exec_call_of_room nnn hroom
      exact ⟨_, hexec⟩
    · exact ⟨_, exec_call_of_full nnn hfull⟩
  | _ => exact ⟨_, rfl⟩

/-- Only the two stack instructions may write the status registers (10_state.md R25). -/
theorem not_writes_status {i : Instr} (hret : i ≠ .ret) (hcall : ∀ nnn : Addr, i ≠ .call nnn) :
    Elem.halt ∉ writes i ∧ Elem.fcause ∉ writes i ∧ Elem.fval ∉ writes i := by
  cases i with
  | ret => exact absurd rfl hret
  | call nnn => exact absurd rfl (hcall nnn)
  | _ => simp [writes]

theorem dispatch_completes (op : Word) (s : State) : ∃ t : State, dispatch op s = .next t := by
  rcases dispatch_cases op s with ⟨i, -, hdisp⟩ | ⟨-, hdisp⟩
  · exact hdisp ▸ exec_completes i s
  · exact ⟨_, hdisp⟩

theorem stepWith_completes (s : State) (now : Nat) (rnd : Byte) : ∃ t : State, stepWith now rnd s = .next t := by
  rcases stepWith_cases now rnd s with ⟨-, hstep⟩ | ⟨-, -, hstep⟩ | ⟨-, -, hstep⟩
  · exact ⟨_, hstep⟩
  · exact ⟨_, hstep⟩
  · exact hstep ▸ dispatch_completes _ _

/-- Settles O12: the status registers are outside the frame of every instruction but the two that can raise. -/
theorem everyInstructionCompletes : Obligations.EveryInstructionCompletes := by
  unfold Obligations.EveryInstructionCompletes
  refine ⟨fun i s => ?_, fun s => stepWith_completes s s.nextNow s.nextRnd, stepWith_completes⟩
  obtain ⟨t, hexec⟩ := exec_completes i s
  refine ⟨t, hexec, fun hret hcall => ?_⟩
  obtain ⟨notHalt, notFcause, notFval⟩ := not_writes_status hret hcall
  have frame := exec_frame hexec
  exact ⟨frame .halt notHalt, frame .fcause notFcause, frame .fval notFval⟩

/-! ### The timer tick (R200) -/

/-- The tick decision of a step, on the input it latched. -/
theorem latchInputs_tickDue_iff (s : State) (now : Nat) (rnd : Byte) :
    (s.latchInputs now rnd).tickDue = true ↔ s.lastTick + 16 ≤ now := by
  rw [State.tickDue, decide_eq_true_iff, State.latchInputs_nowIn, State.latchInputs_lastTick, Config.tickMs]
  omega

theorem timerTick_of_due {s : State} (h : s.tickDue = true) :
    s.timerTick.dt.toNat = s.dt.toNat - 1 ∧ s.timerTick.st.toNat = s.st.toNat - 1 ∧
      s.timerTick.lastTick = s.nowIn := by
  rw [State.timerTick_dt, State.timerTick_st, State.timerTick_lastTick, h]
  exact ⟨countDown_due s.dt, countDown_due s.st, rfl⟩

theorem timerTick_of_not_due {s : State} (h : s.tickDue = false) :
    s.timerTick.dt = s.dt ∧ s.timerTick.st = s.st ∧ s.timerTick.lastTick = s.lastTick := by
  rw [State.timerTick_dt, State.timerTick_st, State.timerTick_lastTick, h]
  exact ⟨countDown_not_due s.dt, countDown_not_due s.st, rfl⟩

/-- Phases 2 to 6 of a live core start from the ticked state (40_step_cycle.md R80). -/
theorem stepWith_of_live {s : State} (h : s.halt = false) (now : Nat) (rnd : Byte) :
    stepWith now rnd s = if s.wait then .next (s.latchInputs now rnd).timerTick.stallCheck
      else dispatch (s.latchInputs now rnd).timerTick.fetchWord (s.latchInputs now rnd).timerTick.advancePc :=
  if_neg (by simp [h])

/-- Settles O9, by the tick decision. -/
theorem timerTickDecrementsOnce : Obligations.TimerTickDecrementsOnce := by
  unfold Obligations.TimerTickDecrementsOnce
  intro s now rnd
  have dueIff := latchInputs_tickDue_iff s now rnd
  refine ⟨fun due => timerTick_of_due (dueIff.2 due), fun _ early => ?_, ?_, fun live => stepWith_of_live live now rnd⟩
  · exact timerTick_of_not_due (Bool.eq_false_iff.2 fun due => absurd (dueIff.1 due) early.not_ge)
  · exact frame_weaken (frame_trans (latchInputs_frame s now rnd) (timerTick_frame _)) (by simp)

/-! ### The key operations (R206) -/

theorem apply_setKey (k : Nibble) (s : State) : (HostOp.setKey k).apply s = .next (s.setKey (k.setWidth 8)) := rfl

theorem apply_clearKey (s : State) : HostOp.clearKey.apply s = .next (s.setKey 0) := rfl

/-- Settles O31: both operations are a write of `KEY`. -/
theorem keyOperationsWriteTheLatch : Obligations.KeyOperationsWriteTheLatch := fun s k =>
  ⟨⟨_, apply_setKey k s, BitVec.toNat_setWidth_of_le (by decide), setKey_frame s _⟩,
    ⟨_, apply_clearKey s, rfl, setKey_frame s 0⟩, rfl⟩

/-! ### The reads (R207, R208) -/

theorem readDisplay_length (s : State) : s.readDisplay.length = 2048 := by
  rw [State.readDisplay, List.length_map, List.length_range]

theorem readDisplay_getElem (s : State) (j : Nat) (h : j < s.readDisplay.length) :
    s.readDisplay[j] = if s.disp.cell j then 1 else 0 := by
  simp only [State.readDisplay, List.getElem_map, List.getElem_range]

/-- Settles O32. -/
theorem hostReadsShowDisplayAndSound : Obligations.HostReadsShowDisplayAndSound := fun s =>
  ⟨readDisplay_length s, readDisplay_getElem s, soundActive_iff s⟩

end Sys2Proof.Proofs


/-! PROOFS. The reset family: the core after `initialize` and its first step, the packing of a byte stream, and the
program that is too large (70_reset_and_hazards.md R231, R233, R234, R237). -/

namespace Sys2Proof.Proofs

open Sys2Proof.Machine Sys2Proof.Safety

/-! ### A byte stream as words (R234) -/

theorem packWords_cons_cons (hi lo : Byte) (rest : List Byte) :
    packWords (hi :: lo :: rest) = wordOfBytes hi lo :: packWords rest := rfl

theorem packWords_singleton (b : Byte) : packWords [b] = [] := rfl

theorem packWords_length (bytes : List Byte) : (packWords bytes).length = bytes.length / 2 := by
  induction bytes using List.twoStepInduction with
  | nil => rfl
  | singleton b => simp [packWords_singleton]
  | cons_cons hi lo rest ih =>
    rw [packWords_cons_cons, List.length_cons, ih]
    exact (Nat.add_div_right rest.length Nat.two_pos).symm

/-- Every word gives its two bytes back, and a last odd byte is in no word. -/
theorem wordsToBytes_packWords (bytes : List Byte) :
    wordsToBytes (packWords bytes) = bytes.take (2 * (bytes.length / 2)) := by
  induction bytes using List.twoStepInduction with
  | nil => rfl
  | singleton b => simp [packWords_singleton, wordsToBytes]
  | cons_cons hi lo rest ih =>
    have twoMore : 2 * ((hi :: lo :: rest).length / 2) = 2 * (rest.length / 2) + 2 := by
      simp only [List.length_cons]
      omega
    rw [packWords_cons_cons, wordsToBytes_cons, highByte_wordOfBytes, lowByte_wordOfBytes, ih, twoMore,
      List.take_succ_cons, List.take_succ_cons]

/-- Settles O34. -/
theorem packedWordsAreTheByteStream : Obligations.PackedWordsAreTheByteStream := fun bytes =>
  ⟨packWords_length bytes, wordsToBytes_packWords bytes⟩

/-! ### The cold reset (R231) -/

theorem coldReset_byteAt (now : Nat) (s : State) (a : Nat) : (s.coldReset now).byteAt a = 0 :=
  Memory.read_nil (a % Config.memSize)

theorem coldReset_getV (now : Nat) (s : State) (r : Nibble) : (s.coldReset now).getV r = 0 :=
  Vector.getElem_replicate r.isLt

theorem coldReset_stack (now : Nat) (s : State) (k : Nat) (h : k < 16) : (s.coldReset now).stack[k] = 0 :=
  Vector.getElem_replicate h

theorem coldReset_disp (now : Nat) (s : State) : (s.coldReset now).disp = Display.blank := rfl

/-- Settles O27, element by element. -/
theorem coldResetClearsEverything : Obligations.ColdResetClearsEverything := fun s now =>
  ⟨s.coldReset now, rfl, coldReset_byteAt now s, coldReset_getV now s, rfl, rfl, coldReset_stack now s, rfl, rfl, rfl,
    fun j => coldReset_disp now s ▸ Display.cell_blank j, rfl, rfl, rfl, rfl, rfl, rfl, rfl⟩

/-! ### A program that does not fit (R233) -/

theorem programFits_iff (words : List Word) : programFits words = true ↔ words.length ≤ 1792 := by
  rw [programFits, decide_eq_true_iff]
  simp only [Config.progBase, Config.memSize]
  omega

theorem loadProgramWith_of_too_large {words : List Word} (h : 1792 < words.length) (font : Vector Byte 80) (s : State) :
    s.loadProgramWith font words = (s, .programTooLarge) :=
  if_neg (mt (programFits_iff words).1 (Nat.not_le_of_lt h))

/-- Settles O29: the load is a rejection or the accepted load of R232. -/
theorem loadProgramRejectsTooLarge : Obligations.LoadProgramRejectsTooLarge := by
  unfold Obligations.LoadProgramRejectsTooLarge
  intro words s
  by_cases tooLarge : 1792 < words.length
  · have rejected : s.loadProgram words = (s, .programTooLarge) := loadProgramWith_of_too_large tooLarge Config.font s
    simp [rejected, tooLarge]
  · have accepted : (s.loadProgram words).2 = .ok := congrArg Prod.snd (loadProgramWith_fits s (by omega))
    simp [accepted, tooLarge]

/-! ### The first step after `initialize` alone (R237) -/

theorem coldReset_running (now : Nat) (s : State) : Running (s.coldReset now) := ⟨rfl, rfl⟩

theorem coldReset_fetchWord (now : Nat) (s : State) : (s.coldReset now).fetchWord = 0x0000 :=
  fetchWord_of_bytes (coldReset_byteAt now s _) (coldReset_byteAt now s _)

/-- The word 0x0000 is no instruction: family 0 holds `00E0` and `00EE` only (30_encoding.md R65). -/
theorem decodeWord_zero : decodeWord 0x0000 = none := by decide

/-- Settles O33: the word fetched is unsupported, and O10 says what such a step leaves. -/
theorem stepWithoutLoadHalts : Obligations.StepWithoutLoadHalts := by
  unfold Obligations.StepWithoutLoadHalts
  intro s now now' rnd
  have fetched := coldReset_fetchWord now s
  obtain ⟨t, hstep, hhalt, hcause, hval, hpc, -⟩ := unsupportedWordHaltsTheCore (s.coldReset now) now' rnd
    (coldReset_running now s) (fetched ▸ decodeWord_zero)
  exact ⟨rfl, coldReset_byteAt now s, fetched, t, hstep, hhalt, hcause, hval.trans fetched, hpc⟩

end Sys2Proof.Proofs
